-- ==== Sys2Proof/Word.lean ====
section
/-! DEFINITION. The widths of the QRV1 core's values (spec 00_scope.md R12): a command word or a result is 32 bits,
a codeword 8, a code point 21 (R11, CPW). Every quantity is unsigned (R19). -/

namespace Sys2Proof

/-- A command word, `RES` or `ERRCMD`: 32 bits (R80, R24, R31). -/
abbrev Word := BitVec 32

/-- An element of GF(256), a codeword, or a byte operand: 8 bits (R120, R17). -/
abbrev Byte := BitVec 8

/-- A character of the message: CPW = 21 bits (R11, R33). -/
abbrev CodePoint := BitVec 21

end Sys2Proof
end

