-- ==== Sys2Proof/Config.lean ====
section
/-! DEFINITION. The fixed constants of the core (00_scope.md R9), its enumerations (R16), and the configuration
record CFG with the open parameters (R10, R11; 93_implementation_defined.md section 2, P1 to P5). The values a
configuration takes by default are in Machine/Tables.lean. -/

namespace Sys2Proof

/-! ## Enumerations (R16) -/

/-- The error-correction level, "enum {L, M, Q, H}" (R16, R17). -/
inductive Level where
  | L | M | Q | H
  deriving DecidableEq, Repr

/-- The 2-bit index of a level as the register LEVEL holds it: L 0, M 1, Q 2, H 3 (R16, R25). -/
def Level.index : Level → BitVec 2
  | .L => 0
  | .M => 1
  | .Q => 2
  | .H => 3

/-- The encoding mode, "enum {Alphanumeric, Byte}" (R16, R17). -/
inductive Mode where
  | alphanumeric | byte
  deriving DecidableEq, Repr

/-- The 1-bit code of a mode: Alphanumeric 0, Byte 1 (R16, R25). -/
def Mode.code : Mode → BitVec 1
  | .alphanumeric => 0
  | .byte => 1

/-- The source's Module, one cell of the grid: "tri-state {Unset, Light, Dark}" (R16, R17, D15). -/
inductive GridModule where
  | unset | light | dark
  deriving DecidableEq, Repr

/-- The 2-bit code RDCELL returns: Unset 0, Light 1, Dark 2; 3 never occurs (R16, R109). -/
def GridModule.code : GridModule → BitVec 2
  | .unset => 0
  | .light => 1
  | .dark => 2

/-! ## Fixed constants (R9) -/

/-- SIZE: rows and columns of the grid. -/
def SIZE : Nat := 21
/-- NCELLS: cells of the grid. -/
def NCELLS : Nat := 441
/-- TOTALCW: the fixed Version-1 total of codewords. -/
def TOTALCW : Nat := 26
/-- PRIM: the primitive polynomial 0x11D. -/
def PRIM : Nat := 285
/-- ALPHA: the field generator. -/
def ALPHA : Nat := 2
/-- PAD0: the first pad byte. -/
def PAD0 : Nat := 0xEC
/-- PAD1: the second pad byte. -/
def PAD1 : Nat := 0x11
/-- MODEBITS: width of the mode indicator. -/
def MODEBITS : Nat := 4
/-- CNTBITS: width of the count indicator of each mode at Version 1. -/
def CNTBITS : Mode → Nat
  | .alphanumeric => 9
  | .byte => 8
/-- PAIRBITS: bits of an alphanumeric pair. -/
def PAIRBITS : Nat := 11
/-- ODDBITS: bits of a trailing odd alphanumeric character. -/
def ODDBITS : Nat := 6
/-- BYTEBITS: bits of a Byte-mode character. -/
def BYTEBITS : Nat := 8
/-- TERMMAX: longest terminator. -/
def TERMMAX : Nat := 4
/-- NMASK: number of mask patterns. -/
def NMASK : Nat := 8
/-- FMTBITS: width of the format string. -/
def FMTBITS : Nat := 15
/-- The largest number of data codewords: it leaves room for one EC codeword of the 26 (R104). -/
def DCWMAX : Nat := 25

/-! ## The configuration record (R10, R11) -/

/-- One value per level: the tables CFG.CAP, CFG.NEC and CFG.FMT are keyed by level (R10). -/
structure PerLevel (α : Type) where
  l : α
  m : α
  q : α
  h : α
  deriving DecidableEq, Repr

/-- The entry of a level. -/
def PerLevel.get {α : Type} (t : PerLevel α) : Level → α
  | .L => t.l
  | .M => t.m
  | .Q => t.q
  | .H => t.h

/-- One value per mode: CFG.MODEIND is keyed by mode (R10). -/
structure PerMode (α : Type) where
  alphanumeric : α
  byte : α
  deriving DecidableEq, Repr

/-- The entry of a mode. -/
def PerMode.get {α : Type} (t : PerMode α) : Mode → α
  | .alphanumeric => t.alphanumeric
  | .byte => t.byte

/-- CFG (R10) with the parameters of R11 and of 93_implementation_defined.md section 2: LOG1 (P2), N3FN (P3),
MSGMAX (P4), CPMAX (P5). It is constant for the life of the core (R21, R28).
`n3fn` is N3FN as plain data: the lines on which the count function differs from the default of R243, each with its
count; a line not listed has the default count (DESIGN CHOICE, log 13). -/
structure Config where
  /-- CFG.ALNUM: the partial map code point → 0..44, as pairs. -/
  alnum : List (CodePoint × Nat)
  /-- CFG.MODEIND: the 4-bit mode indicators. -/
  modeInd : PerMode (BitVec 4)
  /-- CFG.CAP: data codewords per level. -/
  cap : PerLevel Nat
  /-- CFG.NEC: EC codewords per level. -/
  nec : PerLevel Nat
  /-- CFG.FMT: the 15-bit format strings, by level and mask id. -/
  fmt : PerLevel (Vector (BitVec 15) 8)
  /-- CFG.FMTPOS_A: the 15 cells (row, column) of the primary copy. -/
  fmtPosA : List (Nat × Nat)
  /-- CFG.FMTPOS_B: the 15 cells (row, column) of the second copy. -/
  fmtPosB : List (Nat × Nat)
  /-- MSGMAX: the most characters MSG holds. -/
  msgMax : Nat
  /-- CPMAX: the largest code point accepted. -/
  cpMax : Nat
  /-- LOG1: the content of LOG[1], 255 or 0. -/
  log1 : Byte
  /-- N3FN: the lines whose count differs from the default, with their counts. -/
  n3fn : List (List GridModule × Nat)
  deriving DecidableEq, Repr

end Sys2Proof
end

