-- ==== Sys2Proof/Machine/Geometry.lean ====
section
/-! DEFINITION. The fixed geometry of the grid (44_matrix.md R190 to R197): the function patterns cell by cell, the
format cells and the function predicate. All are functions of (row, column) alone. -/

namespace Sys2Proof.Machine

/-- The cell of a 7 × 7 finder at distance (dr, dc) from its top-left corner: dark outer ring, light inner ring,
dark centre, by m = max(|dr − 3|, |dc − 3|) (R191). -/
def finderCell (dr dc : Nat) : GridModule :=
  let m := max (max dr 3 - min dr 3) (max dc 3 - min dc 3)
  if m = 2 then .light else .dark

/-- The top-left corners of the three finders (R191). -/
def finderCorners : List (Nat × Nat) := [(0, 0), (0, 14), (14, 0)]

/-- What the finder patterns draw at (r, c) (R191). -/
def finderAt (r c : Nat) : Option GridModule :=
  (finderCorners.find? fun p => p.1 ≤ r && r ≤ p.1 + 6 && p.2 ≤ c && c ≤ p.2 + 6).map
    fun p => finderCell (r - p.1) (c - p.2)

/-- Whether (r, c) lies on a separator strip, the table of R192. -/
def isSeparator (r c : Nat) : Bool :=
  (r == 7 && c ≤ 7) || (c == 7 && r ≤ 7)
    || (r == 7 && 13 ≤ c && c ≤ 20) || (c == 13 && r ≤ 7)
    || (r == 13 && c ≤ 7) || (c == 7 && 13 ≤ r && r ≤ 20)

/-- What the timing patterns draw at (r, c): indices 8 to 12 of row 6 and of column 6, dark at even indices (R193). -/
def timingAt (r c : Nat) : Option GridModule :=
  if r = 6 ∧ 8 ≤ c ∧ c ≤ 12 then some (if c % 2 = 0 then .dark else .light)
  else if c = 6 ∧ 8 ≤ r ∧ r ≤ 12 then some (if r % 2 = 0 then .dark else .light)
  else none

/-- What FPLACE draws at (r, c), none where it writes nothing: finders (R191), separators (R192), timing (R193), the
dark module at (13, 8) (R194). -/
def drawnAt (r c : Nat) : Option GridModule :=
  match finderAt r c with
  | some m => some m
  | none =>
    if isSeparator r c then some .light
    else match timingAt r c with
      | some m => some m
      | none => if r = 13 ∧ c = 8 then some .dark else none

/-- The 30 format cells, zone by zone (R195). -/
def isFormat (r c : Nat) : Bool :=
  (c == 8 && (r ≤ 5 || r == 7 || r == 8))
    || (r == 8 && (c ≤ 5 || c == 7))
    || (r == 8 && 13 ≤ c && c ≤ 20)
    || (c == 8 && 14 ≤ r && r ≤ 20)

/-- The function predicate (R196): the top-left zone 9 × 9, the top-right 9 × 8, the bottom-left 8 × 9, row 6 and
column 6 (conflict C1 as resolved there). -/
def isFunction (r c : Nat) : Bool :=
  (r ≤ 8 && c ≤ 8) || (r ≤ 8 && 13 ≤ c) || (13 ≤ r && c ≤ 8) || r == 6 || c == 6

end Sys2Proof.Machine
end

