-- ==== Sys2Proof/Syntax.lean ====
section
/-! DEFINITION. The 29 commands of the opcode map (30_encoding.md R83) as one inductive, their mnemonics, the
assembler's text of a command (R87) and the pseudo-commands (R88). An operand has exactly the bits its format gives
it (R81, R82), so every term is a command some word encodes. -/

namespace Sys2Proof

/-- One command with its operands (R83). -/
inductive Instr where
  | newreq
  | setlvl (t : Byte)
  | msgch (cp : CodePoint)
  | dcwpush (b : Byte)
  | rddcw (i : Byte)
  | rdecw (i : Byte)
  | rdgen (i : Byte)
  | rdbit (i : Byte)
  | rdcell (r c : BitVec 5)
  | rdfunc (r c : BitVec 5)
  | gfexp (i : Byte)
  | gflog (v : Byte)
  | gfadd (a b : Byte)
  | gfmul (a b : Byte)
  | rsgen (n : Byte)
  | rsgenl
  | rsenc
  | bsmode
  | bschk
  | bsasm
  | bspad
  | fplace
  | zzinit
  | zzstep
  | zzrun
  | maskap (id : BitVec 3)
  | penalty
  | masksel
  | fmtwr (id : BitVec 3)
  deriving DecidableEq, Repr

/-- The mnemonic of a command (R83). -/
def Instr.mnemonic : Instr → String
  | .newreq => "NEWREQ"
  | .setlvl _ => "SETLVL"
  | .msgch _ => "MSGCH"
  | .dcwpush _ => "DCWPUSH"
  | .rddcw _ => "RDDCW"
  | .rdecw _ => "RDECW"
  | .rdgen _ => "RDGEN"
  | .rdbit _ => "RDBIT"
  | .rdcell _ _ => "RDCELL"
  | .rdfunc _ _ => "RDFUNC"
  | .gfexp _ => "GFEXP"
  | .gflog _ => "GFLOG"
  | .gfadd _ _ => "GFADD"
  | .gfmul _ _ => "GFMUL"
  | .rsgen _ => "RSGEN"
  | .rsgenl => "RSGENL"
  | .rsenc => "RSENC"
  | .bsmode => "BSMODE"
  | .bschk => "BSCHK"
  | .bsasm => "BSASM"
  | .bspad => "BSPAD"
  | .fplace => "FPLACE"
  | .zzinit => "ZZINIT"
  | .zzstep => "ZZSTEP"
  | .zzrun => "ZZRUN"
  | .maskap _ => "MASKAP"
  | .penalty => "PENALTY"
  | .masksel => "MASKSEL"
  | .fmtwr _ => "FMTWR"

/-- The operands of a command in the order of R83, as unsigned numbers (R82). -/
def Instr.operands : Instr → List Nat
  | .setlvl t => [t.toNat]
  | .msgch cp => [cp.toNat]
  | .dcwpush b => [b.toNat]
  | .rddcw i => [i.toNat]
  | .rdecw i => [i.toNat]
  | .rdgen i => [i.toNat]
  | .rdbit i => [i.toNat]
  | .rdcell r c => [r.toNat, c.toNat]
  | .rdfunc r c => [r.toNat, c.toNat]
  | .gfexp i => [i.toNat]
  | .gflog v => [v.toNat]
  | .gfadd a b => [a.toNat, b.toNat]
  | .gfmul a b => [a.toNat, b.toNat]
  | .rsgen n => [n.toNat]
  | .maskap id => [id.toNat]
  | .fmtwr id => [id.toNat]
  | .newreq | .rsgenl | .rsenc | .bsmode | .bschk | .bsasm | .bspad | .fplace | .zzinit | .zzstep | .zzrun
  | .penalty | .masksel => []

/-- The assembler's text of a command: the mnemonic, then the operands in decimal separated by commas (R87). -/
def Instr.toAsm (i : Instr) : String :=
  match i.operands with
  | [] => i.mnemonic
  | ops => i.mnemonic ++ " " ++ ", ".intercalate (ops.map toString)

/-! ## Pseudo-commands (R88): fixed lists the assembler expands; the core never sees them -/

/-- `MSGSTR "..."`. -/
def Pseudo.msgstr (text : List CodePoint) : List Instr := text.map .msgch

/-- `DCWSTR b0, b1, ...`. -/
def Pseudo.dcwstr (bytes : List Byte) : List Instr := bytes.map .dcwpush

/-- `PLACE`. -/
def Pseudo.place : List Instr := [.zzinit, .zzrun]

/-- `ENCODE.CORE 'x', "text"`: the named CORE's share of an encode, the level first (R88). -/
def Pseudo.encodeCore (t : Byte) (text : List CodePoint) : List Instr :=
  [.newreq, .setlvl t] ++ Pseudo.msgstr text
    ++ [.bsmode, .bschk, .bsasm, .bspad, .rsgenl, .rsenc, .fplace] ++ Pseudo.place

/-- `ENCODE 'x', "text"`: a whole encode. -/
def Pseudo.encode (t : Byte) (text : List CodePoint) : List Instr :=
  Pseudo.encodeCore t text ++ [.masksel]

end Sys2Proof
end

