-- ==== Sys2Proof/WellFormed.lean ====
section
/-! DEFINITION. Two checks. `Config.wf`: the premises on CFG that "every claim about the core takes as hypotheses"
(00_scope.md R10) and the constraints on the open parameters (93_implementation_defined.md section 2).
`Instr.wellFormed`: every operand lies in its legal range. A field can hold values outside that range, which decode
and run all the same and are turned away by the command's own checks (30_encoding.md R82), so a term that is not
well formed is a command that always raises when it is performed. -/

namespace Sys2Proof

/-! ## The configuration -/

/-- The domain the source fixes for CFG.ALNUM: "digits, uppercase letters, space, `$%*+-./:`" (R10, R161), by code
point (R163). -/
def alnumDomain : List CodePoint :=
  [0x30, 0x31, 0x32, 0x33, 0x34, 0x35, 0x36, 0x37, 0x38, 0x39] ++
  [0x41, 0x42, 0x43, 0x44, 0x45, 0x46, 0x47, 0x48, 0x49, 0x4A, 0x4B, 0x4C, 0x4D] ++
  [0x4E, 0x4F, 0x50, 0x51, 0x52, 0x53, 0x54, 0x55, 0x56, 0x57, 0x58, 0x59, 0x5A] ++
  [0x20, 0x24, 0x25, 0x2A, 0x2B, 0x2D, 0x2E, 0x2F, 0x3A]

/-- CFG.ALNUM has exactly 45 entries, one for each character of the domain, with distinct values 0..44 (R10). -/
def Config.alnumWf (c : Config) : Bool :=
  c.alnum.length == 45
    && decide (c.alnum.map (·.1)).Nodup && (c.alnum.map (·.1)).all (alnumDomain.contains ·)
    && decide (c.alnum.map (·.2)).Nodup && (c.alnum.map (·.2)).all (· ≤ 44)

/-- For every level 1 ≤ CAP ≤ 25, 1 ≤ NEC ≤ 25 and CAP + NEC = 26 (R10). -/
def Config.budgetWf (c : Config) : Bool :=
  [Level.L, .M, .Q, .H].all fun l =>
    1 ≤ c.cap.get l && c.cap.get l ≤ 25 && 1 ≤ c.nec.get l && c.nec.get l ≤ 25
      && c.cap.get l + c.nec.get l == TOTALCW

/-- Every FMTPOS coordinate is one of the 30 format cells, each list has 15 distinct cells, and the two lists share
none (R10). -/
def Config.fmtPosWf (c : Config) : Bool :=
  c.fmtPosA.length == FMTBITS && c.fmtPosB.length == FMTBITS
    && (c.fmtPosA ++ c.fmtPosB).all (fun p => Machine.isFormat p.1 p.2)
    && decide (c.fmtPosA ++ c.fmtPosB).Nodup

/-- MSGMAX in 1..255 (P4), CPMAX < 2^21 (P5), LOG1 in {255, 0} (P2), and the counts of N3FN (P3) small enough that
a penalty stays below 2^32 as R245 says (DESIGN CHOICE, log 13). -/
def Config.paramsWf (c : Config) : Bool :=
  1 ≤ c.msgMax && c.msgMax ≤ 255 && c.cpMax < 2 ^ 21 && (c.log1 == 255 || c.log1 == 0)
    && c.n3fn.all (·.2 < 2 ^ 20)

/-- The premises on CFG and on the open parameters (R10; U13). -/
def Config.wf (c : Config) : Bool :=
  c.alnumWf && c.budgetWf && c.fmtPosWf && c.paramsWf

/-! ## The operands of a command -/

/-- The legal operands of a command (R82): the four level tokens, code points up to CPMAX, degrees 1..25, rows and
columns 0..20, and the addresses 1..255 of the LOG table (R60). Every other operand is legal at every value of its
field. -/
def Instr.wellFormed (c : Config) : Instr → Bool
  | .setlvl t => t == 0x4C || t == 0x4D || t == 0x51 || t == 0x48
  | .msgch cp => cp.toNat ≤ c.cpMax
  | .rdcell r k => r.toNat ≤ 20 && k.toNat ≤ 20
  | .rdfunc r k => r.toNat ≤ 20 && k.toNat ≤ 20
  | .gflog v => v != 0
  | .rsgen n => 1 ≤ n.toNat && n.toNat ≤ 25
  | .newreq | .dcwpush _ | .rddcw _ | .rdecw _ | .rdgen _ | .rdbit _ | .gfexp _ | .gfadd _ _ | .gfmul _ _
  | .rsgenl | .rsenc | .bsmode | .bschk | .bsasm | .bspad | .fplace | .zzinit | .zzstep | .zzrun
  | .maskap _ | .penalty | .masksel | .fmtwr _ => true

end Sys2Proof
end

