-- ==== Sys2Proof/Decode.lean ====
section
/-! DEFINITION. The opcode map as a table of rows (30_encoding.md R81, R83), the decoder over it (R84), total on all
2^32 words, and after it the encoder, written from the format table R81. -/

namespace Sys2Proof

/-- The six formats (R81). -/
inductive Format where
  | z | b1 | b2 | cp | rc | m3
  deriving DecidableEq, Repr

/-- The column "mask" of R81: a 1 for every opcode bit and every must-be-zero bit. -/
def Format.mask : Format → Word
  | .z => 0xFFFFFFFF
  | .b1 => 0xFFFFFF00
  | .b2 => 0xFFFF0000
  | .cp => 0xFFE00000
  | .rc => 0xFFFFE0E0
  | .m3 => 0xFFFFFFF8

/-! ## Operand slices of a word (R81) -/

/-- B1: `a = bits[7:0]`. -/
def byteField (w : Word) : Byte := w.extractLsb' 0 8
/-- B2: `a = bits[15:8]`. -/
def highByteField (w : Word) : Byte := w.extractLsb' 8 8
/-- CP: `cp = bits[20:0]`. -/
def codePointField (w : Word) : CodePoint := w.extractLsb' 0 21
/-- RC: `r = bits[12:8]`. -/
def rowField (w : Word) : BitVec 5 := w.extractLsb' 8 5
/-- RC: `c = bits[4:0]`. -/
def columnField (w : Word) : BitVec 5 := w.extractLsb' 0 5
/-- M3: `id = bits[2:0]`. -/
def maskIdField (w : Word) : BitVec 3 := w.extractLsb' 0 3

/-! ## The opcode map (R83) -/

/-- One row of R83: the word with every operand bit zero, the format, and the command with its operands cut from a
word. -/
structure Row where
  matchWord : Word
  format : Format
  build : Word → Instr

/-- Host commands (R83). -/
def hostRows : List Row :=
  [⟨0x01000000, .z, fun _ => .newreq⟩,
   ⟨0x02000000, .b1, fun w => .setlvl (byteField w)⟩,
   ⟨0x03000000, .cp, fun w => .msgch (codePointField w)⟩,
   ⟨0x04000000, .b1, fun w => .dcwpush (byteField w)⟩,
   ⟨0x08000000, .b1, fun w => .rddcw (byteField w)⟩,
   ⟨0x09000000, .b1, fun w => .rdecw (byteField w)⟩,
   ⟨0x0A000000, .b1, fun w => .rdgen (byteField w)⟩,
   ⟨0x0B000000, .b1, fun w => .rdbit (byteField w)⟩,
   ⟨0x0C000000, .rc, fun w => .rdcell (rowField w) (columnField w)⟩,
   ⟨0x0D000000, .rc, fun w => .rdfunc (rowField w) (columnField w)⟩]

/-- GFROM and RSENC commands (R83). -/
def fieldRows : List Row :=
  [⟨0x10000000, .b1, fun w => .gfexp (byteField w)⟩,
   ⟨0x11000000, .b1, fun w => .gflog (byteField w)⟩,
   ⟨0x12000000, .b2, fun w => .gfadd (highByteField w) (byteField w)⟩,
   ⟨0x13000000, .b2, fun w => .gfmul (highByteField w) (byteField w)⟩,
   ⟨0x20000000, .b1, fun w => .rsgen (byteField w)⟩,
   ⟨0x21000000, .z, fun _ => .rsgenl⟩,
   ⟨0x22000000, .z, fun _ => .rsenc⟩]

/-- BSENC and MATRIX commands (R83). -/
def builderRows : List Row :=
  [⟨0x30000000, .z, fun _ => .bsmode⟩,
   ⟨0x31000000, .z, fun _ => .bschk⟩,
   ⟨0x32000000, .z, fun _ => .bsasm⟩,
   ⟨0x33000000, .z, fun _ => .bspad⟩,
   ⟨0x40000000, .z, fun _ => .fplace⟩,
   ⟨0x41000000, .z, fun _ => .zzinit⟩,
   ⟨0x42000000, .z, fun _ => .zzstep⟩,
   ⟨0x43000000, .z, fun _ => .zzrun⟩]

/-- MASK and FMT commands, the extension (R83). -/
def extensionRows : List Row :=
  [⟨0x50000000, .m3, fun w => .maskap (maskIdField w)⟩,
   ⟨0x51000000, .z, fun _ => .penalty⟩,
   ⟨0x52000000, .z, fun _ => .masksel⟩,
   ⟨0x58000000, .m3, fun w => .fmtwr (maskIdField w)⟩]

/-- The 29 rows of R83. -/
def opcodeMap : List Row := hostRows ++ fieldRows ++ builderRows ++ extensionRows

/-- "a word w selects the row iff `(w and mask) = match`" (R83). -/
def Row.selects (r : Row) (w : Word) : Bool := w &&& r.format.mask == r.matchWord

/-- Decoding (R84): the row the word selects, with its operands cut from the word; `none` is the spec's Illegal
(R85). -/
def decode (w : Word) : Option Instr :=
  (opcodeMap.find? (·.selects w)).map (·.build w)

/-- The decoder on a row of spec/opcode_table.json: bit 0 of `w` is bit 0 of the command word; a command is one
word of 32 bits (R80) and carries no operand beyond it. -/
def decodeTableWord (nbits w : Nat) : Option Instr :=
  decode (BitVec.ofNat 32 (w % 2 ^ nbits))

/-! ## Encoding, column by column of R81 -/

/-- Format Z: the opcode, then zeros. -/
def encodeZ (op : BitVec 8) : Word := op ++ (0 : BitVec 24)
/-- Format B1. -/
def encodeB1 (op : BitVec 8) (a : Byte) : Word := op ++ (0 : BitVec 16) ++ a
/-- Format B2. -/
def encodeB2 (op : BitVec 8) (a b : Byte) : Word := op ++ (0 : BitVec 8) ++ a ++ b
/-- Format CP. -/
def encodeCP (op : BitVec 8) (cp : CodePoint) : Word := op ++ (0 : BitVec 3) ++ cp
/-- Format RC. -/
def encodeRC (op : BitVec 8) (r c : BitVec 5) : Word := op ++ (0 : BitVec 11) ++ r ++ (0 : BitVec 3) ++ c
/-- Format M3. -/
def encodeM3 (op : BitVec 8) (id : BitVec 3) : Word := op ++ (0 : BitVec 21) ++ id

/-- The word of a command: its opcode and its operands in the columns of its format (R81, R83). -/
def encode : Instr → Word
  | .newreq => encodeZ 0x01
  | .setlvl t => encodeB1 0x02 t
  | .msgch cp => encodeCP 0x03 cp
  | .dcwpush b => encodeB1 0x04 b
  | .rddcw i => encodeB1 0x08 i
  | .rdecw i => encodeB1 0x09 i
  | .rdgen i => encodeB1 0x0A i
  | .rdbit i => encodeB1 0x0B i
  | .rdcell r c => encodeRC 0x0C r c
  | .rdfunc r c => encodeRC 0x0D r c
  | .gfexp i => encodeB1 0x10 i
  | .gflog v => encodeB1 0x11 v
  | .gfadd a b => encodeB2 0x12 a b
  | .gfmul a b => encodeB2 0x13 a b
  | .rsgen n => encodeB1 0x20 n
  | .rsgenl => encodeZ 0x21
  | .rsenc => encodeZ 0x22
  | .bsmode => encodeZ 0x30
  | .bschk => encodeZ 0x31
  | .bsasm => encodeZ 0x32
  | .bspad => encodeZ 0x33
  | .fplace => encodeZ 0x40
  | .zzinit => encodeZ 0x41
  | .zzstep => encodeZ 0x42
  | .zzrun => encodeZ 0x43
  | .maskap id => encodeM3 0x50 id
  | .penalty => encodeZ 0x51
  | .masksel => encodeZ 0x52
  | .fmtwr id => encodeM3 0x58 id

end Sys2Proof
end

