-- ==== Sys2Proof/Machine/Tables.lean ====
section
/-! DEFINITION. The default contents of CFG and of the open parameters, as the spec prints them: CFG.ALNUM
(43_bitstream.md R163), CFG.MODEIND, CFG.CAP and CFG.NEC (00_scope.md R10), CFG.FMT and CFG.FMTPOS (46_format_info.md
R262, R263), MSGMAX and CPMAX (R11), LOG1 (41_gf256.md R123), N3FN (45_mask_engine.md R243). -/

namespace Sys2Proof.Machine

/-- CFG.ALNUM by default: value = position in digits, letters, space, then the signs (R163). -/
def defaultAlnum : List (CodePoint × Nat) :=
  [(0x30, 0), (0x31, 1), (0x32, 2), (0x33, 3), (0x34, 4), (0x35, 5), (0x36, 6), (0x37, 7), (0x38, 8)] ++
  [(0x39, 9), (0x41, 10), (0x42, 11), (0x43, 12), (0x44, 13), (0x45, 14), (0x46, 15), (0x47, 16), (0x48, 17)] ++
  [(0x49, 18), (0x4A, 19), (0x4B, 20), (0x4C, 21), (0x4D, 22), (0x4E, 23), (0x4F, 24), (0x50, 25), (0x51, 26)] ++
  [(0x52, 27), (0x53, 28), (0x54, 29), (0x55, 30), (0x56, 31), (0x57, 32), (0x58, 33), (0x59, 34), (0x5A, 35)] ++
  [(0x20, 36), (0x24, 37), (0x25, 38), (0x2A, 39), (0x2B, 40), (0x2D, 41), (0x2E, 42), (0x2F, 43), (0x3A, 44)]

/-- CFG.FMT by default, rows by level, columns by mask id (R262). -/
def defaultFmt : PerLevel (Vector (BitVec 15) 8) where
  l := #v[0x77C4, 0x72F3, 0x7DAA, 0x789D, 0x662F, 0x6318, 0x6C41, 0x6976]
  m := #v[0x5412, 0x5125, 0x5E7C, 0x5B4B, 0x45F9, 0x40CE, 0x4F97, 0x4AA0]
  q := #v[0x355F, 0x3068, 0x3F31, 0x3A06, 0x24B4, 0x2183, 0x2EDA, 0x2BED]
  h := #v[0x1689, 0x13BE, 0x1CE7, 0x19D0, 0x0762, 0x0255, 0x0D0C, 0x083B]

/-- CFG.FMTPOS_A by default: along row 8, round (8, 8), up column 8 (R263). -/
def defaultFmtPosA : List (Nat × Nat) :=
  [(8, 0), (8, 1), (8, 2), (8, 3), (8, 4), (8, 5), (8, 7), (8, 8)] ++
  [(7, 8), (5, 8), (4, 8), (3, 8), (2, 8), (1, 8), (0, 8)]

/-- CFG.FMTPOS_B by default: up the bottom-left strip, then along the top-right strip (R263, conflict C2). -/
def defaultFmtPosB : List (Nat × Nat) :=
  [(20, 8), (19, 8), (18, 8), (17, 8), (16, 8), (15, 8), (14, 8)] ++
  [(8, 13), (8, 14), (8, 15), (8, 16), (8, 17), (8, 18), (8, 19)] ++
  [(8, 20)]

/-- The configuration the spec prints and its test vectors use (R10, R11, 93_implementation_defined.md section 2). -/
def defaultConfig : Config where
  alnum := defaultAlnum
  modeInd := { alphanumeric := 0b0010, byte := 0b0100 }
  cap := { l := 19, m := 16, q := 13, h := 9 }
  nec := { l := 7, m := 10, q := 13, h := 17 }
  fmt := defaultFmt
  fmtPosA := defaultFmtPosA
  fmtPosB := defaultFmtPosB
  msgMax := 255
  cpMax := 0x10FFFF
  log1 := 255
  n3fn := []

end Sys2Proof.Machine
end

