-- ==== Sys2Proof/Machine/State.lean ====
section
/-! DEFINITION. The state of the core (10_state.md), as plain data, its reset value (R41), and the reasons a step can
stop. A register that "holds no value" while its validity flag is 0 is an Option that is none, as the spec says (R25,
R41, R301). -/

namespace Sys2Proof.Machine

/-- State of the zig-zag writer: IDLE 0, RUN 1, DONE 2; 3 never occurs (R27). -/
inductive ZState where
  | idle | run | done
  deriving DecidableEq, Repr

/-- The cursor of the zig-zag writer (R27). -/
structure Cursor where
  /-- ZC: column of the right cell of the current strip. -/
  zc : BitVec 5
  /-- ZR: current row. -/
  zr : BitVec 5
  /-- ZK: false (0) when the right column ZC is next, true (1) when the left column ZC − 1 is. -/
  zk : Bool
  /-- ZUP: true (1) when the walk goes upward. -/
  zup : Bool
  /-- ZN: index of the next unconsumed bit of the combined bit string. -/
  zn : BitVec 8
  deriving DecidableEq, Repr

/-- The grid G as the cells that are not Unset, by address 21·r + c in strictly rising order; a cell that is not
listed is Unset, which is what every cell holds at reset (R38, R41). The form is `Memory.wf`. -/
abbrev Grid := List (Nat × GridModule)

/-- One thing the host does at the input ports (R22, R300, R310). -/
inductive HostInput where
  /-- A pulse on `rst` between two commands (R300). -/
  | rst
  /-- One command word on `cmd` (R80). -/
  | command (w : Word)
  deriving DecidableEq, Repr

/-- The state of the core: every register and buffer of 10_state.md, each in one field. The first two fields are the
model's own (log 1, log 2). -/
structure State where
  /-- The host's inputs still to come, the next one first (R22; log 2). -/
  inbox : List HostInput
  /-- CFG, constant (R10, R21; log 1). -/
  cfg : Config
  /-- RES (R24). -/
  res : Word
  /-- STATUS (R29). -/
  status : BitVec 16
  /-- ERR (R30). -/
  err : BitVec 4
  /-- ERRCMD (R31). -/
  errcmd : Word
  /-- LEVEL (R25). -/
  level : Option Level
  /-- MODE (R25). -/
  mode : Option Mode
  /-- MSGLEN (R26). -/
  msglen : BitVec 8
  /-- REQBITS (R26). -/
  reqbits : Option (BitVec 16)
  /-- BITLEN (R26). -/
  bitlen : Option (BitVec 8)
  /-- DLEN (R26). -/
  dlen : BitVec 5
  /-- ELEN (R26). -/
  elen : BitVec 5
  /-- GENDEG (R26). -/
  gendeg : Option (BitVec 5)
  /-- MSG (R33). -/
  msg : List CodePoint
  /-- BITS (R34). -/
  bits : List Bool
  /-- DCW (R35). -/
  dcw : List Byte
  /-- ECW (R36). -/
  ecw : List Byte
  /-- GEN (R37). -/
  gen : Option (List Byte)
  /-- G (R38). -/
  g : Grid
  /-- ZST (R27). -/
  zst : ZState
  /-- ZC, ZR, ZK, ZUP, ZN (R27). -/
  cursor : Option Cursor
  /-- MSKPAR (R32). -/
  mskpar : BitVec 8
  /-- BEST (R32). -/
  best : Option (BitVec 3)
  /-- BESTPEN (R32). -/
  bestpen : Option Word
  deriving DecidableEq, Repr

/-- The reset values of R41 for a given configuration, with the host's remaining inputs: what reset (R301) and NEWREQ
(R101) both leave. -/
def State.fresh (cfg : Config) (inbox : List HostInput) : State where
  inbox := inbox
  cfg := cfg
  res := 0
  status := 0
  err := 0
  errcmd := 0
  level := none
  mode := none
  msglen := 0
  reqbits := none
  bitlen := none
  dlen := 0
  elen := 0
  gendeg := none
  msg := []
  bits := []
  dcw := []
  ecw := []
  gen := none
  g := []
  zst := .idle
  cursor := none
  mskpar := 0
  best := none
  bestpen := none

/-- The machine right after reset (R41, R301), with the default configuration and no input waiting (log 1, log 2). -/
def State.reset : State := State.fresh defaultConfig []

/-- The registers that hold no value while their validity flag is 0 (R41). -/
inductive ValueRegister where
  | level | mode | reqbits | bitlen | gendeg | gen | cursor
  deriving DecidableEq, Repr

/-- The buffers that a length register bounds (R26). -/
inductive Buffer where
  | msg | bits | dcw | ecw | gen
  deriving DecidableEq, Repr

/-- Why a step stops. Every error of the spec is a next state (R275), so each reason here marks a state that no run
from reset reaches; all are safe (the model stops, no value is made up). -/
inductive Fault where
  /-- Raised by a command that reads a register which holds no value although its flag is 1 (log 6). Safe. -/
  | noValue (r : ValueRegister)
  /-- Raised by a command that reads an entry below a length register which the buffer does not hold (log 7). Safe. -/
  | absentEntry (b : Buffer)
  /-- Raised by BSASM when MODE is Alphanumeric and a character has no value in CFG.ALNUM (log 6). Safe. -/
  | notAlphanumeric
  /-- Raised by PENALTY and MASKSEL when the grid to be scored has an Unset cell: no score is defined (R236; log 10).
  Safe. -/
  | unsetCell
  /-- Raised by ZZSTEP and ZZRUN when the cursor is off the ten strips of the grid (R201, R204; log 11). Safe. -/
  | astrayCursor
  deriving DecidableEq, Repr

/-- Why an instruction has no meaning. No arm of exec uses it: every command of R83 is modelled. -/
inductive Refusal where
  /-- Raised by exec for an instruction that has no meaning yet. Safe. -/
  | notModelled (mnemonic : String)
  deriving DecidableEq, Repr

end Sys2Proof.Machine
end

