-- ==== Sys2Proof/Machine/Flags.lean ====
section
/-! DEFINITION. The flags of STATUS (10_state.md R29): the position of each, reading one, setting one. The core has no
arithmetic flag (R29); a flag is only ever set, and cleared by NEWREQ and reset alone. -/

namespace Sys2Proof.Machine

/-- The flags of STATUS by name (R29). -/
inductive Flag where
  | lvlv | modev | chkv | asmv | dcwv | genv | ecwv | fpv | plv | fmtv | done | raw | padv | fault
  deriving DecidableEq, Repr

/-- The bit of STATUS that holds a flag (R29); bits 13 and 14 are reserved. -/
def Flag.bit : Flag → Nat
  | .lvlv => 0
  | .modev => 1
  | .chkv => 2
  | .asmv => 3
  | .dcwv => 4
  | .genv => 5
  | .ecwv => 6
  | .fpv => 7
  | .plv => 8
  | .fmtv => 9
  | .done => 10
  | .raw => 11
  | .padv => 12
  | .fault => 15

/-- STATUS with one flag set to 1. -/
def statusWith (status : BitVec 16) (f : Flag) : BitVec 16 := status ||| (1#16 <<< f.bit)

/-- The value of a flag. -/
def State.flag (s : State) (f : Flag) : Bool := s.status.getLsbD f.bit

/-- The state with one flag set to 1 (R29, "set to 1 by"). -/
def State.setFlag (s : State) (f : Flag) : State := { s with status := statusWith s.status f }

end Sys2Proof.Machine
end

