-- ==== Sys2Proof/Machine/Operands.lean ====
section
/-! DEFINITION. The operand forms of the commands (30_encoding.md R82): the level token, cell coordinates, buffer
indices; and the order of bits in bit sequences and codewords (00_scope.md R13, 20_memory.md R63). -/

namespace Sys2Proof.Machine

/-- The level of a token byte: 'L', 'M', 'Q', 'H' in upper case; nothing else is a level (R102). -/
def levelOfToken (t : Byte) : Option Level :=
  if t = 0x4C then some .L
  else if t = 0x4D then some .M
  else if t = 0x51 then some .Q
  else if t = 0x48 then some .H
  else none

/-- A cell coordinate pair is legal: rows and columns 0..20 (R65, R109). -/
def inGrid (r c : Nat) : Bool := r ≤ 20 && c ≤ 20

/-- The first `len` entries of a buffer, the entries its length register says exist (R26); none when the buffer holds
fewer. -/
def entries {α : Type} (buf : List α) (len : Nat) : Option (List α) :=
  if len ≤ buf.length then some (buf.take len) else none

/-- The buffer after a write at index `len`, one past its last entry (R103, R104). -/
def appended {α : Type} (buf : List α) (len : Nat) (v : α) : List α := buf.take len ++ [v]

/-- `bitsN(v)`: the N-bit sequence of a value, most significant bit first (R13). -/
def bitsN : Nat → Nat → List Bool
  | 0, _ => []
  | n + 1, v => v.testBit n :: bitsN n v

/-- The value of a bit sequence read most significant bit first (R13). -/
def bitsValue (bs : List Bool) : Nat := bs.foldl (fun v b => 2 * v + b.toNat) 0

/-- `byte(s, i)`: bit 7 is `s[8i]`, bit 0 is `s[8i+7]` (R13). -/
def byteAt (s : List Bool) (i : Nat) : Byte := BitVec.ofNat 8 (bitsValue ((s.drop (8 * i)).take 8))

/-- The bits of a list of codewords, each most significant bit first (R63, R199). -/
def codewordBits (cw : List Byte) : List Bool := cw.flatMap fun b => bitsN 8 b.toNat

end Sys2Proof.Machine
end

