-- ==== Sys2Proof/Machine/Ops.lean ====
section
/-! DEFINITION. The shared operations of the commands: raising an error (60_exceptions.md R275) and the way out of the
fault state (R279), the execution rule (40_system_host.md R100: gate, Requires, Checks, Effect), the grid's accesses
(10_state.md R38, 20_memory.md R62), and taking the host's next input (10_state.md R22). -/

namespace Sys2Proof.Machine

/-- What a meaning answers. -/
abbrev Result := Host.Outcome State Fault Refusal

/-! ## Errors (R270 to R275) -/

/-- The eight error kinds (R271 to R274). -/
inductive ErrorKind where
  | invalidLevelError | unsupportedCharacterError | capacityExceededError | illegalCommand | sequenceError
  | operandRange | bufferOverflow | logZero
  deriving DecidableEq, Repr

/-- The code of an error kind in ERR (R271 to R274). -/
def ErrorKind.code : ErrorKind → BitVec 4
  | .invalidLevelError => 1
  | .unsupportedCharacterError => 2
  | .capacityExceededError => 3
  | .illegalCommand => 4
  | .sequenceError => 5
  | .operandRange => 6
  | .bufferOverflow => 7
  | .logZero => 8

/-- `raise E(w)`: ERR takes the code, ERRCMD the command word, FAULT becomes 1, and nothing else changes (R275). -/
def State.raise (s : State) (e : ErrorKind) (w : Word) : State :=
  { s with err := e.code, errcmd := w, status := statusWith s.status .fault }

/-- The way out of the fault state, and the reset event: every piece of state takes its reset value of R41; CFG and the
host's remaining inputs are no part of the core's state and stay (R101, R279, R300 to R302; log 4). -/
def State.restart (s : State) : State := State.fresh s.cfg s.inbox

/-! ## The execution rule (R100) -/

/-- The sticky gate: while ERR ≠ 0 the command changes no state at all (R277). -/
def gate (s : State) (k : Result) : Result := if s.err = 0 then k else .next s

/-- A Requires line, its conditions in order: when one is false the command raises SequenceError (R100, R274). -/
def require (conds : List Bool) (w : Word) (s : State) (k : Result) : Result :=
  if conds.all id then k else .next (s.raise .sequenceError w)

/-- One test of a Checks line: when it fails the command raises the error the test names (R100). -/
def check (ok : Bool) (e : ErrorKind) (w : Word) (s : State) (k : Result) : Result :=
  if ok then k else .next (s.raise e w)

/-- A check that yields what the Effect uses: `none` raises the error (R100). -/
def checkSome {α : Type} (o : Option α) (e : ErrorKind) (w : Word) (s : State) (k : α → Result) : Result :=
  match o with
  | some a => k a
  | none => .next (s.raise e w)

/-- A read of a value that every reachable state holds: `none` stops the model under the fault's name. -/
def reading {α : Type} (o : Option α) (f : Fault) (k : α → Result) : Result :=
  match o with
  | some a => k a
  | none => .fault f

/-- A condition that every reachable state meets; otherwise the model stops under the fault's name. -/
def assured (ok : Bool) (f : Fault) (k : Result) : Result := if ok then k else .fault f

/-- The head of every command but NEWREQ: the gate, then the Requires line; the rest of the command gets the command
word, which an error records (R100, R277, R278; log 5). -/
def command (i : Instr) (requires : List Bool) (s : State) (k : Word → Result) : Result :=
  gate s (require requires (encode i) s (k (encode i)))

/-- `RES <- v`, zero-extended to 32 bits, as the whole Effect of a read command (R24, R66). -/
def State.setRes {n : Nat} (s : State) (v : BitVec n) : State := { s with res := v.setWidth 32 }

/-! ## The grid (R38, R62) -/

/-- The address of cell (r, c) in row-major order (R14). -/
def cellAddress (r c : Nat) : Nat := SIZE * r + c

/-- The cell at an address; a cell that is not listed is Unset (R41). -/
def Grid.load : Grid → Nat → GridModule
  | [], _ => .unset
  | (a, m) :: rest, k => if a = k then m else Grid.load rest k

/-- The grid after a write at an address; the canonical form lists no Unset cell. -/
def Grid.store : Grid → Nat → GridModule → Grid
  | [], k, m => if m = .unset then [] else [(k, m)]
  | (a, v) :: rest, k, m =>
    if k < a then (if m = .unset then (a, v) :: rest else (k, m) :: (a, v) :: rest)
    else if k = a then (if m = .unset then rest else (k, m) :: rest)
    else (a, v) :: Grid.store rest k m

/-- The canonical form of the grid: addresses strictly rising and below 441, no entry Unset. -/
def Memory.wf (g : Grid) : Bool :=
  decide ((g.map (·.1)).Pairwise (· < ·)) && g.all fun e => e.1 < NCELLS && e.2 != .unset

/-- `G[r][c]` (R14). -/
def Grid.read (g : Grid) (r c : Nat) : GridModule := Grid.load g (cellAddress r c)

/-- `G[r][c] <- v`; a coordinate outside the grid names no entry, so nothing is written (R65; log 14). -/
def Grid.write (g : Grid) (r c : Nat) (v : GridModule) : Grid :=
  if inGrid r c then Grid.store g (cellAddress r c) v else g

/-- The grid whose cell (r, c) is `f r c`: a command that writes many cells, each at most once and from the old grid,
is one of these (R62, R208, R232). -/
def Grid.tabulate (f : Nat → Nat → GridModule) : Grid :=
  (List.range NCELLS).filterMap fun a =>
    match f (a / SIZE) (a % SIZE) with
    | .unset => none
    | m => some (a, m)

/-- Every cell of the grid meets `p`. -/
def allCells (p : Nat → Nat → Bool) : Bool :=
  (List.range SIZE).all fun r => (List.range SIZE).all fun c => p r c

/-- No cell of the grid is Unset (R236, R246). -/
def Grid.complete (g : Grid) : Bool := allCells fun r c => g.read r c != .unset

/-! ## The host's inputs (R22, R310) -/

/-- What the input ports hold at a step. -/
inductive Input where
  /-- No input: the core has no command (R286). -/
  | none
  /-- A pulse on `rst`; the state is the core's with the input taken. -/
  | rst (s : State)
  /-- A command word; the state is the core's with the input taken. -/
  | command (w : Word) (s : State)
  deriving DecidableEq, Repr

/-- Take the host's next input (R22, R100). -/
def takeInput (s : State) : Input :=
  match s.inbox with
  | [] => .none
  | .rst :: rest => .rst { s with inbox := rest }
  | .command w :: rest => .command w { s with inbox := rest }

/-- Performing a word that no row of the opcode map matches: ignored while ERR ≠ 0, otherwise IllegalCommand (R85,
R100, R277, R278). -/
def illegalCommand (w : Word) (s : State) : Result := gate s (.next (s.raise .illegalCommand w))

/-- The reset event: any state goes to the reset state (R300, R301). -/
def resetEvent (s : State) : Result := .next s.restart

/-- The core with no command: nothing changes (R286; log 3). -/
def idleStep (s : State) : Result := .next s

/-- `cmd_ready` between two steps: a command is performed whole within one step, so the core is always ready (R22). -/
def State.cmdReady (_ : State) : Bool := true

/-- `cmd_valid`: the host presents a word at the next step (R22). -/
def State.cmdValid (s : State) : Bool :=
  match s.inbox with
  | .command _ :: _ => true
  | _ => false

end Sys2Proof.Machine
end

