-- ==== Sys2Proof/Machine/Bitstream.lean ====
section
/-! DEFINITION. The BSENC unit (43_bitstream.md): mode detection, capacity check, assembly, padding and packing, and
the commands BSMODE, BSCHK, BSASM, BSPAD (R174 to R177). -/

namespace Sys2Proof.Machine

/-! ## Mode detection (R161, R162) -/

/-- `val(cp) = CFG.ALNUM[cp]` (R163); none outside the map's domain. -/
def alnumValue (c : Config) (cp : CodePoint) : Option Nat :=
  (c.alnum.find? fun e => e.1 == cp).map (·.2)

/-- `detect_mode(MSG)`: Alphanumeric iff every character is in the domain of CFG.ALNUM (R161). -/
def detectMode (c : Config) (msg : List CodePoint) : Mode :=
  if msg.all fun cp => (alnumValue c cp).isSome then .alphanumeric else .byte

/-- `check_bytes(MSG)`: every code point is at most 255 (R162). -/
def checkBytes (msg : List CodePoint) : Bool := msg.all fun cp => cp.toNat ≤ 255

/-! ## Capacity (R164, R165) -/

/-- `required_bits(MODE, n)` (R164). -/
def requiredBits (m : Mode) (n : Nat) : Nat :=
  match m with
  | .alphanumeric => MODEBITS + CNTBITS .alphanumeric + PAIRBITS * (n / 2) + ODDBITS * (n % 2)
  | .byte => MODEBITS + CNTBITS .byte + BYTEBITS * n

/-- `capbits = 8·CFG.CAP[LEVEL]` (R160). -/
def capBits (c : Config) (l : Level) : Nat := 8 * c.cap.get l

/-! ## Assembly (R166 to R169) -/

/-- The header: the mode indicator, then the number of characters (R166). -/
def headerBits (c : Config) (m : Mode) (n : Nat) : List Bool :=
  bitsN MODEBITS (c.modeInd.get m).toNat ++ bitsN (CNTBITS m) n

/-- `payload_alnum(MSG)`: 11 bits for each pair, 6 for a trailing odd character (R167); none when a character has no
value. -/
def payloadAlnum (c : Config) : List CodePoint → Option (List Bool)
  | [] => some []
  | [a] => (alnumValue c a).map (bitsN ODDBITS)
  | a :: b :: rest =>
    match alnumValue c a, alnumValue c b, payloadAlnum c rest with
    | some x, some y, some bs => some (bitsN PAIRBITS (45 * x + y) ++ bs)
    | _, _, _ => none

/-- `payload_byte(MSG)`: the code point of each character in 8 bits (R168). -/
def payloadByte (msg : List CodePoint) : List Bool := msg.flatMap fun cp => bitsN BYTEBITS cp.toNat

/-- `assemble(MODE, MSG) = header ++ payload` (R169). -/
def assemble (c : Config) (m : Mode) (msg : List CodePoint) : Option (List Bool) :=
  match m with
  | .alphanumeric => (payloadAlnum c msg).map (headerBits c m msg.length ++ ·)
  | .byte => some (headerBits c m msg.length ++ payloadByte msg)

/-! ## Padding and packing (R170 to R172) -/

/-- Append the terminator: `min(4, capbits − length)` zero bits (R170). -/
def addTerminator (capbits : Nat) (s : List Bool) : List Bool :=
  s ++ List.replicate (min TERMMAX (capbits - s.length)) false

/-- Zero-pad to the next byte boundary (R171). -/
def padToByte (s : List Bool) : List Bool := s ++ List.replicate ((8 - s.length % 8) % 8) false

/-- `k` pad bytes in turn, the first 0xEC when `first` holds and else 0x11 (R172). -/
def padBytes : Nat → Bool → List Bool
  | 0, _ => []
  | k + 1, first => bitsN 8 (if first then PAD0 else PAD1) ++ padBytes k (!first)

/-- The whole padding of R170 to R172: terminator, byte boundary, then pad bytes until the capacity is reached. -/
def padStream (capbits : Nat) (s : List Bool) : List Bool :=
  let t := padToByte (addTerminator capbits s)
  t ++ padBytes ((capbits - t.length) / 8) true

/-- Packing: `DCW[i] <- byte(s, i)` for i in 0..cap−1 (R172). -/
def packBytes (cap : Nat) (s : List Bool) : List Byte := (List.range cap).map (byteAt s)

/-! ## Commands -/

/-- BSMODE: detect the mode and check the characters (R174). -/
def execBsmode (s : State) : Result :=
  command .bsmode [s.flag .lvlv, !s.flag .modev, !s.flag .raw] s fun w =>
  reading (entries s.msg s.msglen.toNat) (.absentEntry .msg) fun msg =>
  check (detectMode s.cfg msg == .alphanumeric || checkBytes msg) .unsupportedCharacterError w s <|
  .next (({ s with mode := some (detectMode s.cfg msg) }.setFlag .modev).setRes (detectMode s.cfg msg).code)

/-- BSCHK: compute the required bits and validate the capacity (R175). -/
def execBschk (s : State) : Result :=
  command .bschk [s.flag .modev, !s.flag .chkv] s fun w =>
  reading s.mode (.noValue .mode) fun m =>
  reading s.level (.noValue .level) fun l =>
  check (requiredBits m s.msglen.toNat ≤ capBits s.cfg l) .capacityExceededError w s <|
  .next (({ s with reqbits := some (BitVec.ofNat 16 (requiredBits m s.msglen.toNat)) }.setFlag .chkv).setRes
    (BitVec.ofNat 16 (requiredBits m s.msglen.toNat)))

/-- BSASM: assemble header and payload (R176). -/
def execBsasm (s : State) : Result :=
  command .bsasm [s.flag .chkv, !s.flag .asmv] s fun _ =>
  reading s.mode (.noValue .mode) fun m =>
  reading s.reqbits (.noValue .reqbits) fun req =>
  reading (entries s.msg s.msglen.toNat) (.absentEntry .msg) fun msg =>
  reading (assemble s.cfg m msg) .notAlphanumeric fun bs =>
  .next ({ s with bits := bs, bitlen := some (req.setWidth 8) }.setFlag .asmv)

/-- BSPAD: terminator, padding, packing into data codewords (R177). -/
def execBspad (s : State) : Result :=
  command .bspad [s.flag .asmv, !s.flag .padv] s fun _ =>
  reading s.level (.noValue .level) fun l =>
  reading s.bitlen (.noValue .bitlen) fun n =>
  reading (entries s.bits n.toNat) (.absentEntry .bits) fun bs =>
  .next (({ s with
    bits := padStream (capBits s.cfg l) bs
    bitlen := some (BitVec.ofNat 8 (capBits s.cfg l))
    dcw := packBytes (s.cfg.cap.get l) (padStream (capBits s.cfg l) bs)
    dlen := BitVec.ofNat 5 (s.cfg.cap.get l) }.setFlag .dcwv).setFlag .padv)

end Sys2Proof.Machine
end

