-- ==== Sys2Proof/Machine/Matrix.lean ====
section
/-! DEFINITION. The MATRIX unit (44_matrix.md): drawing the function patterns (R208) and the zig-zag data writer with
its state machine (R199 to R206), and the commands FPLACE, ZZINIT, ZZSTEP, ZZRUN (R208 to R211). -/

namespace Sys2Proof.Machine

/-- The grid with the 203 cells of R191 to R194 drawn and every other cell as it was (R208). -/
def drawFunctionPatterns (g : Grid) : Grid :=
  Grid.tabulate fun r c => (drawnAt r c).getD (g.read r c)

/-! ## The zig-zag writer (R199 to R206) -/

/-- A bit as a colour: "1→Dark, 0→Light" (R200, R261). -/
def colourOf (b : Bool) : GridModule := if b then .dark else .light

/-- What one step of the writer works on: the grid, ZST and the cursor. -/
structure Walk where
  g : Grid
  zst : ZState
  cur : Cursor
  deriving DecidableEq, Repr

/-- The start of the cursor, set by ZZINIT: the bottom-right corner, upward (R202). -/
def Cursor.start : Cursor := { zc := 20, zr := 20, zk := false, zup := true, zn := 0 }

/-- The column of the current cell, ZC − ZK (R202). -/
def Cursor.column (k : Cursor) : Nat := k.zc.toNat - k.zk.toNat

/-- The right columns of the ten strips, in the order walked (R201). -/
def stripColumns : List (BitVec 5) := [20, 18, 16, 14, 12, 10, 8, 5, 3, 1]

/-- The cursor is on the path: a row 0..20 of one of the ten strips (R201, R204). -/
def Cursor.onPath (k : Cursor) : Bool := k.zr.toNat ≤ 20 && stripColumns.contains k.zc

/-- `zz_visit` (R203): a non-function Unset cell takes the next bit of the combined bit string, or Light once the
string is exhausted (R206); any other cell is left as it is and no bit is consumed. -/
def zzVisit (bits : List Bool) (x : Walk) : Walk :=
  let r := x.cur.zr.toNat
  let c := x.cur.column
  if !isFunction r c && x.g.read r c == .unset then
    match bits[x.cur.zn.toNat]? with
    | some b => { x with g := x.g.write r c (colourOf b), cur := { x.cur with zn := x.cur.zn + 1 } }
    | none => { x with g := x.g.write r c .light }
  else x

/-- `zz_advance` (R204): the left cell after the right, then the next row in the walk's direction; at a vertical
boundary the direction turns and the walk steps left by two columns, over column 6, until column 0 is exhausted. -/
def zzAdvance (x : Walk) : Walk :=
  let k := x.cur
  if !k.zk then { x with cur := { k with zk := true } }
  else if k.zup && 0 < k.zr.toNat then { x with cur := { k with zk := false, zr := k.zr - 1 } }
  else if !k.zup && k.zr.toNat < 20 then { x with cur := { k with zk := false, zr := k.zr + 1 } }
  else if k.zc = 1 then { x with zst := .done, cur := { k with zk := false, zup := !k.zup } }
  else { x with cur := { k with zk := false, zup := !k.zup, zc := if k.zc - 2 = 6 then 5 else k.zc - 2 } }

/-- One step: the visit, then the advance (R204). -/
def zzStep (bits : List Bool) (x : Walk) : Walk := zzAdvance (zzVisit bits x)

/-- Steps until ZST is DONE, at most `fuel` of them (R205, R211, R309). -/
def zzRun (bits : List Bool) : Nat → Walk → Walk
  | 0, x => x
  | fuel + 1, x => if x.zst = .done then x else zzRun bits fuel (zzStep bits x)

/-- The steps of a whole walk: 10 strips × 21 rows × 2 cells (R205). -/
def WALKSTEPS : Nat := 420

/-- The state after the writer has moved: its grid, ZST and cursor, and PLV once ZST is DONE (R210, R211). -/
def State.withWalk (s : State) (x : Walk) : State :=
  let t := { s with g := x.g, zst := x.zst, cursor := some x.cur }
  if x.zst = .done then t.setFlag .plv else t

/-- The common body of ZZSTEP and ZZRUN: the cursor on its path and the combined bit string (R199), then the motion. -/
def moveWriter (s : State) (move : List Bool → Walk → Walk) : Result :=
  reading s.cursor (.noValue .cursor) fun cur =>
  assured cur.onPath .astrayCursor <|
  reading (entries s.dcw s.dlen.toNat) (.absentEntry .dcw) fun data =>
  reading (entries s.ecw s.elen.toNat) (.absentEntry .ecw) fun ec =>
  .next (s.withWalk (move (codewordBits (data ++ ec)) { g := s.g, zst := s.zst, cur := cur }))

/-! ## Commands -/

/-- FPLACE: draw the function patterns (R208). -/
def execFplace (s : State) : Result :=
  command .fplace [!s.flag .fpv] s fun _ =>
  .next ({ s with g := drawFunctionPatterns s.g }.setFlag .fpv)

/-- ZZINIT: arm the zig-zag writer (R209). -/
def execZzinit (s : State) : Result :=
  command .zzinit [s.flag .fpv, s.flag .ecwv, s.zst == .idle] s fun _ =>
  .next { s with zst := .run, cursor := some Cursor.start }

/-- ZZSTEP: one step of the writer (R210). -/
def execZzstep (s : State) : Result :=
  command .zzstep [s.zst == .run] s fun _ => moveWriter s zzStep

/-- ZZRUN: run the writer to the end (R211). -/
def execZzrun (s : State) : Result :=
  command .zzrun [s.zst == .run] s fun _ => moveWriter s fun bits => zzRun bits WALKSTEPS

end Sys2Proof.Machine
end

