-- ==== Sys2Proof/Machine/FormatInfo.lean ====
section
/-! DEFINITION. The FMT unit (46_format_info.md): the format string written twice (R261, R264) and the command FMTWR
(R265). -/

namespace Sys2Proof.Machine

/-- `f = CFG.FMT[level][id]` (R261). -/
def formatString (c : Config) (l : Level) (id : BitVec 3) : BitVec 15 := (c.fmt.get l).get id.toFin

/-- `fbit(f, k) = f[14 − k]`: k = 0 is the most significant bit (R261). -/
def formatBit (f : BitVec 15) (k : Nat) : Bool := f.getLsbD (14 - k)

/-- `write_format(level, id)`: for k in 0..14, bit k goes to FMTPOS_A[k] and to FMTPOS_B[k] (R264). -/
def writeFormat (c : Config) (l : Level) (id : BitVec 3) (g : Grid) : Grid :=
  (List.zip c.fmtPosA c.fmtPosB).zipIdx.foldl
    (fun g p =>
      let v := colourOf (formatBit (formatString c l id) p.2)
      (g.write p.1.1.1 p.1.1.2 v).write p.1.2.1 p.1.2.2 v)
    g

/-- FMTWR id: write the format information for (LEVEL, id) (R265). -/
def execFmtwr (id : BitVec 3) (s : State) : Result :=
  command (.fmtwr id) [s.flag .plv, s.flag .lvlv, !s.flag .done] s fun _ =>
  reading s.level (.noValue .level) fun l =>
  .next ({ s with g := writeFormat s.cfg l id s.g }.setFlag .fmtv)

end Sys2Proof.Machine
end

