-- ==== Sys2Proof/Machine/Mask.lean ====
section
/-! DEFINITION. The MASK unit (45_mask_engine.md): the eight formulas (R231), mask application (R232), the four-rule
penalty (R236 to R245), the selection (R247, R248), and the commands MASKAP, PENALTY, MASKSEL (R235, R246, R249). -/

namespace Sys2Proof.Machine

/-! ## Masks -/

/-- `F(id, r, c)` (R231); `/` in formula 4 is the floor quotient. -/
def maskFormula (id : BitVec 3) (r c : Nat) : Bool :=
  match id.toNat with
  | 0 => (r + c) % 2 == 0
  | 1 => r % 2 == 0
  | 2 => c % 3 == 0
  | 3 => (r + c) % 3 == 0
  | 4 => (r / 2 + c / 3) % 2 == 0
  | 5 => (r * c) % 2 + (r * c) % 3 == 0
  | 6 => ((r * c) % 2 + (r * c) % 3) % 2 == 0
  | _ => ((r + c) % 2 + (r * c) % 3) % 2 == 0

/-- `flip`: Dark and Light change places (R232). An Unset cell has no colour to flip and stays Unset (log 9). -/
def flipModule : GridModule → GridModule
  | .unset => .unset
  | .light => .dark
  | .dark => .light

/-- `apply_mask(id)`: flip every non-function cell whose (row, col) satisfies formula id (R232). -/
def applyMask (id : BitVec 3) (g : Grid) : Grid :=
  Grid.tabulate fun r c =>
    if !isFunction r c && maskFormula id r c then flipModule (g.read r c) else g.read r c

/-! ## Penalty -/

/-- Row r, read left to right (R237). -/
def rowLine (g : Grid) (r : Nat) : List GridModule := (List.range SIZE).map fun c => g.read r c

/-- Column c, read top to bottom (R237). -/
def columnLine (g : Grid) (c : Nat) : List GridModule := (List.range SIZE).map fun r => g.read r c

/-- The 42 lines of the grid (R237). -/
def gridLines (g : Grid) : List (List GridModule) :=
  (List.range SIZE).map (rowLine g) ++ (List.range SIZE).map (columnLine g)

/-- The lengths of the maximal runs of one colour in a line, in order (R238). -/
def runLengths : List GridModule → List Nat
  | [] => []
  | [_] => [1]
  | a :: b :: rest =>
    match runLengths (b :: rest) with
    | n :: ns => if a = b then (n + 1) :: ns else 1 :: n :: ns
    | [] => [1]

/-- The cost of a run: `3 + (run_length − 5)` from 5 on, else 0 (R238). -/
def runCost (len : Nat) : Nat := if 5 ≤ len then 3 + (len - 5) else 0

/-- Penalty N1 of one line (R238). -/
def n1Line (line : List GridModule) : Nat := ((runLengths line).map runCost).sum

/-- The 2×2 block at (r, c) is of one colour (R239). -/
def uniformBlock (g : Grid) (r c : Nat) : Bool :=
  g.read r c == g.read r (c + 1) && g.read r c == g.read (r + 1) c && g.read r c == g.read (r + 1) (c + 1)

/-- Penalty N2: 3 for each of the 400 overlapping blocks of uniform colour (R239). -/
def n2 (g : Grid) : Nat :=
  3 * ((List.range 20).map fun r => (List.range 20).countP (uniformBlock g r)).sum

/-- PA: the finder-like sequence with four Light cells after it (R241, R242). -/
def patternAfter : List GridModule :=
  [.dark, .light, .dark, .dark, .dark, .light, .dark, .light, .light, .light, .light]

/-- PB: the finder-like sequence with four Light cells before it (R241, R242). -/
def patternBefore : List GridModule :=
  [.light, .light, .light, .light, .dark, .light, .dark, .dark, .dark, .light, .dark]

/-- The occurrences of an 11-cell pattern in a line, at i = 0..10 (R243). -/
def occurrences (pattern line : List GridModule) : Nat :=
  (List.range 11).countP fun i => (line.drop i).take 11 == pattern

/-- N3FN of a line: by default the occurrences of PA and of PB (R243); a configuration may set another count (P3, log
13). -/
def n3Count (c : Config) (line : List GridModule) : Nat :=
  match c.n3fn.find? fun e => e.1 == line with
  | some e => e.2
  | none => occurrences patternAfter line + occurrences patternBefore line

/-- The number of Dark cells among the 441 (R244). -/
def darkCount (g : Grid) : Nat :=
  ((List.range SIZE).map fun r => (rowLine g r).countP (· == .dark)).sum

/-- The N4 term for a number of dark cells: `10 · (|100·dark − 22050| div 2205)` (R244). -/
def n4 (dark : Nat) : Nat := 10 * ((max (100 * dark) 22050 - min (100 * dark) 22050) / 2205)

/-- `penalty(G) = N1 + N2 + N3 + N4` (R236). -/
def penaltyScore (c : Config) (g : Grid) : Nat :=
  ((gridLines g).map n1Line).sum + n2 g + 40 * ((gridLines g).map (n3Count c)).sum + n4 (darkCount g)

/-! ## Selection (R247) -/

/-- The selection between two trials: the grid, the best id so far and its score. -/
structure Selection where
  g : Grid
  best : BitVec 3
  bestpen : Nat
  deriving DecidableEq, Repr

/-- One trial on the grid: apply the mask, write the provisional format, score, undo the mask; the grid left behind
and the score (R247). -/
def trial (c : Config) (l : Level) (id : BitVec 3) (g : Grid) : Grid × Nat :=
  let scored := writeFormat c l id (applyMask id g)
  (applyMask id scored, penaltyScore c scored)

/-- The trial of one id, kept when its score is strictly less (R247, R248). -/
def selectStep (c : Config) (l : Level) (x : Selection) (id : BitVec 3) : Selection :=
  let t := trial c l id x.g
  if t.2 < x.bestpen then { g := t.1, best := id, bestpen := t.2 } else { x with g := t.1 }

/-- The eight trials in order; the first one found is the best so far (R247). -/
def trials (c : Config) (l : Level) (g : Grid) : Selection :=
  [1, 2, 3, 4, 5, 6, 7].foldl (selectStep c l)
    { g := (trial c l 0 g).1, best := 0, bestpen := (trial c l 0 g).2 }

/-- `select(LEVEL)`: the trials, then the winner's mask and format for good (R247). -/
def select (c : Config) (l : Level) (g : Grid) : Selection :=
  let x := trials c l g
  { x with g := writeFormat c l x.best (applyMask x.best x.g) }

/-! ## Commands -/

/-- MASKAP id: apply (or undo) one mask (R235). -/
def execMaskap (id : BitVec 3) (s : State) : Result :=
  command (.maskap id) [s.flag .plv, !s.flag .done] s fun _ =>
  .next { s with g := applyMask id s.g, mskpar := s.mskpar ^^^ (1#8 <<< id.toNat) }

/-- PENALTY: score the grid as it stands (R246). -/
def execPenalty (s : State) : Result :=
  command .penalty [s.flag .plv, s.flag .fmtv] s fun _ =>
  assured s.g.complete .unsetCell <|
  .next (s.setRes (BitVec.ofNat 32 (penaltyScore s.cfg s.g)))

/-- MASKSEL: run the eight trials, apply the winner, write the final format information (R249). -/
def execMasksel (s : State) : Result :=
  command .masksel [s.flag .plv, s.flag .lvlv, s.mskpar == 0, !s.flag .done] s fun _ =>
  reading s.level (.noValue .level) fun l =>
  assured (writeFormat s.cfg l 0 s.g).complete .unsetCell <|
  let x := select s.cfg l s.g
  .next ((({ s with
    g := x.g
    best := some x.best
    bestpen := some (BitVec.ofNat 32 x.bestpen)
    mskpar := 1#8 <<< x.best.toNat }.setFlag .fmtv).setFlag .done).setRes x.best)

end Sys2Proof.Machine
end

