-- ==== Sys2Proof/Machine/GaloisField.lean ====
section
/-! DEFINITION. The GFROM unit (41_gf256.md): the ROM images of R122 and R123, the field operations R125 and R126,
and the commands GFEXP, GFLOG, GFADD, GFMUL (R128 to R131). -/

namespace Sys2Proof.Machine

/-! ## The two ROMs: row label + column offset = address (R122, R123) -/

/-- EXP[0..255], 16 rows of 16 entries (R122). -/
def expRows : Vector (Vector Byte 16) 16 :=
  #v[#v[1, 2, 4, 8, 16, 32, 64, 128, 29, 58, 116, 232, 205, 135, 19, 38],
     #v[76, 152, 45, 90, 180, 117, 234, 201, 143, 3, 6, 12, 24, 48, 96, 192],
     #v[157, 39, 78, 156, 37, 74, 148, 53, 106, 212, 181, 119, 238, 193, 159, 35],
     #v[70, 140, 5, 10, 20, 40, 80, 160, 93, 186, 105, 210, 185, 111, 222, 161],
     #v[95, 190, 97, 194, 153, 47, 94, 188, 101, 202, 137, 15, 30, 60, 120, 240],
     #v[253, 231, 211, 187, 107, 214, 177, 127, 254, 225, 223, 163, 91, 182, 113, 226],
     #v[217, 175, 67, 134, 17, 34, 68, 136, 13, 26, 52, 104, 208, 189, 103, 206],
     #v[129, 31, 62, 124, 248, 237, 199, 147, 59, 118, 236, 197, 151, 51, 102, 204],
     #v[133, 23, 46, 92, 184, 109, 218, 169, 79, 158, 33, 66, 132, 21, 42, 84],
     #v[168, 77, 154, 41, 82, 164, 85, 170, 73, 146, 57, 114, 228, 213, 183, 115],
     #v[230, 209, 191, 99, 198, 145, 63, 126, 252, 229, 215, 179, 123, 246, 241, 255],
     #v[227, 219, 171, 75, 150, 49, 98, 196, 149, 55, 110, 220, 165, 87, 174, 65],
     #v[130, 25, 50, 100, 200, 141, 7, 14, 28, 56, 112, 224, 221, 167, 83, 166],
     #v[81, 162, 89, 178, 121, 242, 249, 239, 195, 155, 43, 86, 172, 69, 138, 9],
     #v[18, 36, 72, 144, 61, 122, 244, 245, 247, 243, 251, 235, 203, 139, 11, 22],
     #v[44, 88, 176, 125, 250, 233, 207, 131, 27, 54, 108, 216, 173, 71, 142, 1]]

/-- LOG[1..255], 16 rows of 16 entries; address 0 has no entry (R123, R124). -/
def logRows : Vector (Vector (Option Byte) 16) 16 :=
  #v[#v[none, some 255, some 1, some 25, some 2, some 50, some 26, some 198, some 3, some 223, some 51, some 238, some 27, some 104, some 199, some 75],
     #v[some 4, some 100, some 224, some 14, some 52, some 141, some 239, some 129, some 28, some 193, some 105, some 248, some 200, some 8, some 76, some 113],
     #v[some 5, some 138, some 101, some 47, some 225, some 36, some 15, some 33, some 53, some 147, some 142, some 218, some 240, some 18, some 130, some 69],
     #v[some 29, some 181, some 194, some 125, some 106, some 39, some 249, some 185, some 201, some 154, some 9, some 120, some 77, some 228, some 114, some 166],
     #v[some 6, some 191, some 139, some 98, some 102, some 221, some 48, some 253, some 226, some 152, some 37, some 179, some 16, some 145, some 34, some 136],
     #v[some 54, some 208, some 148, some 206, some 143, some 150, some 219, some 189, some 241, some 210, some 19, some 92, some 131, some 56, some 70, some 64],
     #v[some 30, some 66, some 182, some 163, some 195, some 72, some 126, some 110, some 107, some 58, some 40, some 84, some 250, some 133, some 186, some 61],
     #v[some 202, some 94, some 155, some 159, some 10, some 21, some 121, some 43, some 78, some 212, some 229, some 172, some 115, some 243, some 167, some 87],
     #v[some 7, some 112, some 192, some 247, some 140, some 128, some 99, some 13, some 103, some 74, some 222, some 237, some 49, some 197, some 254, some 24],
     #v[some 227, some 165, some 153, some 119, some 38, some 184, some 180, some 124, some 17, some 68, some 146, some 217, some 35, some 32, some 137, some 46],
     #v[some 55, some 63, some 209, some 91, some 149, some 188, some 207, some 205, some 144, some 135, some 151, some 178, some 220, some 252, some 190, some 97],
     #v[some 242, some 86, some 211, some 171, some 20, some 42, some 93, some 158, some 132, some 60, some 57, some 83, some 71, some 109, some 65, some 162],
     #v[some 31, some 45, some 67, some 216, some 183, some 123, some 164, some 118, some 196, some 23, some 73, some 236, some 127, some 12, some 111, some 246],
     #v[some 108, some 161, some 59, some 82, some 41, some 157, some 85, some 170, some 251, some 96, some 134, some 177, some 187, some 204, some 62, some 90],
     #v[some 203, some 89, some 95, some 176, some 156, some 169, some 160, some 81, some 11, some 245, some 22, some 235, some 122, some 117, some 44, some 215],
     #v[some 79, some 174, some 213, some 233, some 230, some 231, some 173, some 232, some 116, some 214, some 244, some 234, some 168, some 80, some 88, some 175]]

/-- EXP[i] (R122): every 8-bit address has an entry. -/
def expRom (i : Byte) : Byte :=
  (expRows.get ⟨i.toNat / 16, by omega⟩).get ⟨i.toNat % 16, by omega⟩

/-- LOG[v] (R123): no entry at 0 (R124); the entry at 1 is the parameter LOG1 (D11, U2). -/
def logRom (log1 : Byte) (v : Byte) : Option Byte :=
  if v = 1 then some log1
  else (logRows.get ⟨v.toNat / 16, by omega⟩).get ⟨v.toNat % 16, by omega⟩

/-! ## Field operations -/

/-- "addition is XOR" (R125). -/
def gfAdd (a b : Byte) : Byte := a ^^^ b

/-- `gf_mul(x, y)`: "0 if either is 0; else `exp[(log[x] + log[y]) mod 255]`", the sum in full width (R126). LOG has an
entry exactly at the non-zero bytes, so the first arm is taken exactly when neither is 0. -/
def gfMul (log1 : Byte) (x y : Byte) : Byte :=
  match logRom log1 x, logRom log1 y with
  | some a, some b => expRom (BitVec.ofNat 8 ((a.toNat + b.toNat) % 255))
  | _, _ => 0

/-! ## Commands -/

/-- GFEXP i: read the EXP ROM (R128). -/
def execGfexp (i : Byte) (s : State) : Result :=
  command (.gfexp i) [] s fun _ => .next (s.setRes (expRom i))

/-- GFLOG v: read the LOG ROM; LOG[0] does not exist, LogZero (R129). -/
def execGflog (v : Byte) (s : State) : Result :=
  command (.gflog v) [] s fun w =>
  checkSome (logRom s.cfg.log1 v) .logZero w s fun l =>
  .next (s.setRes l)

/-- GFADD a, b (R130). -/
def execGfadd (a b : Byte) (s : State) : Result :=
  command (.gfadd a b) [] s fun _ => .next (s.setRes (gfAdd a b))

/-- GFMUL a, b (R131). -/
def execGfmul (a b : Byte) (s : State) : Result :=
  command (.gfmul a b) [] s fun _ => .next (s.setRes (gfMul s.cfg.log1 a b))

end Sys2Proof.Machine
end

