-- ==== Sys2Proof/Machine/ReedSolomon.lean ====
section
/-! DEFINITION. The RSENC unit (42_reed_solomon.md): the generator polynomial (R141), the division (R143), and the
commands RSGEN, RSGENL, RSENC (R146 to R148). A polynomial is a list of bytes, highest power first (R140). -/

namespace Sys2Proof.Machine

/-- One round of rs_gen: the product of `g` and (x − root), `h[j]` gathering `g[j]` and `h[j+1]` gathering
`g[j] · root` (R141). -/
def mulByRoot (log1 root : Byte) (g : List Byte) : List Byte :=
  List.zipWith gfAdd (g ++ [0]) (0 :: g.map fun c => gfMul log1 c root)

/-- `rs_gen(n)`: the product of (x − EXP[i]) for i in 0..n−1 (R141). -/
def rsGen (log1 : Byte) : Nat → List Byte
  | 0 => [1]
  | n + 1 => mulByRoot log1 (expRom (BitVec.ofNat 8 n)) (rsGen log1 n)

/-- `buf[j] <- buf[j] xor v[j]` over the entries of `v`, the later entries of `buf` kept (R143). -/
def xorInto : List Byte → List Byte → List Byte
  | b :: buf, v :: vs => gfAdd b v :: xorInto buf vs
  | buf, _ => buf

/-- The division loop of R143 on what remains of `buf` from the current leading coefficient on, with `k` leading
coefficients still to remove: a non-zero leading coefficient XORs the scaled generator in (which makes it 0), and the
loop moves past it. -/
def rsDivide (log1 : Byte) (g : List Byte) : Nat → List Byte → List Byte
  | 0, buf => buf
  | _ + 1, [] => []
  | k + 1, coef :: rest =>
    rsDivide log1 g k
      (if coef = 0 then rest else (xorInto (coef :: rest) (g.map fun c => gfMul log1 c coef)).tail)

/-- `rs_encode` with the generator `g` of degree `n` in hand (R143, R148): the last n coefficients of the division of
`data ++ [0] * n`. -/
def rsEncodeWith (log1 : Byte) (g data : List Byte) (n : Nat) : List Byte :=
  rsDivide log1 g data.length (data ++ List.replicate n 0)

/-- `rs_encode(data, n)` (R143). -/
def rsEncode (log1 : Byte) (data : List Byte) (n : Nat) : List Byte :=
  rsEncodeWith log1 (rsGen log1 n) data n

/-- The Effect shared by RSGEN and RSGENL: GEN, GENDEG and GENV (R146, R147). -/
def State.withGenerator (s : State) (n : Nat) : State :=
  { s with gen := some (rsGen s.cfg.log1 n), gendeg := some (BitVec.ofNat 5 n) }.setFlag .genv

/-! ## Commands -/

/-- RSGEN n: build the generator polynomial of degree n (R146). -/
def execRsgen (n : Byte) (s : State) : Result :=
  command (.rsgen n) [!s.flag .genv] s fun w =>
  check (1 ≤ n.toNat && n.toNat ≤ 25) .operandRange w s <|
  .next (s.withGenerator n.toNat)

/-- RSGENL: build the generator polynomial for the chosen level (R147). -/
def execRsgenl (s : State) : Result :=
  command .rsgenl [s.flag .lvlv, !s.flag .genv] s fun _ =>
  reading s.level (.noValue .level) fun l =>
  .next (s.withGenerator (s.cfg.nec.get l))

/-- RSENC: compute the EC codewords of the data codewords (R148). -/
def execRsenc (s : State) : Result :=
  command .rsenc [s.flag .dcwv, s.flag .genv, !s.flag .ecwv] s fun w =>
  reading s.gendeg (.noValue .gendeg) fun n =>
  check (s.dlen.toNat + n.toNat ≤ TOTALCW) .operandRange w s <|
  reading (entries s.dcw s.dlen.toNat) (.absentEntry .dcw) fun data =>
  reading s.gen (.noValue .gen) fun gen =>
  reading (entries gen (n.toNat + 1)) (.absentEntry .gen) fun g =>
  .next ({ s with ecw := rsEncodeWith s.cfg.log1 g data n.toNat, elen := n }.setFlag .ecwv)

end Sys2Proof.Machine
end

