-- ==== Sys2Proof/Machine/SystemHost.lean ====
section
/-! DEFINITION. The ten host and system commands (40_system_host.md R101 to R110). -/

namespace Sys2Proof.Machine

/-- NEWREQ: every piece of state takes its reset value; it runs whatever ERR holds (R101, R277). -/
def execNewreq (s : State) : Result := .next s.restart

/-- SETLVL t: give the level token (R102). -/
def execSetlvl (t : Byte) (s : State) : Result :=
  command (.setlvl t) [!s.flag .lvlv] s fun w =>
  checkSome (levelOfToken t) .invalidLevelError w s fun l =>
  .next ({ s with level := some l }.setFlag .lvlv)

/-- MSGCH cp: append one character to the message (R103). -/
def execMsgch (cp : CodePoint) (s : State) : Result :=
  command (.msgch cp) [!s.flag .modev, !s.flag .raw] s fun w =>
  check (cp.toNat ≤ s.cfg.cpMax) .operandRange w s <|
  check (s.msglen.toNat < s.cfg.msgMax) .bufferOverflow w s <|
  .next { s with msg := appended s.msg s.msglen.toNat cp, msglen := s.msglen + 1 }

/-- DCWPUSH b: append one data codeword, the raw path (R104). -/
def execDcwpush (b : Byte) (s : State) : Result :=
  command (.dcwpush b) [!s.flag .modev, !s.flag .ecwv] s fun w =>
  check (s.dlen.toNat < DCWMAX) .bufferOverflow w s <|
  .next (({ s with dcw := appended s.dcw s.dlen.toNat b, dlen := s.dlen + 1 }.setFlag .dcwv).setFlag .raw)

/-- RDDCW i: read a data codeword (R105). -/
def execRddcw (i : Byte) (s : State) : Result :=
  command (.rddcw i) [s.flag .dcwv] s fun w =>
  check (i.toNat < s.dlen.toNat) .operandRange w s <|
  reading s.dcw[i.toNat]? (.absentEntry .dcw) fun b =>
  .next (s.setRes b)

/-- RDECW i: read an EC codeword (R106). -/
def execRdecw (i : Byte) (s : State) : Result :=
  command (.rdecw i) [s.flag .ecwv] s fun w =>
  check (i.toNat < s.elen.toNat) .operandRange w s <|
  reading s.ecw[i.toNat]? (.absentEntry .ecw) fun b =>
  .next (s.setRes b)

/-- RDGEN i: read a generator coefficient (R107). -/
def execRdgen (i : Byte) (s : State) : Result :=
  command (.rdgen i) [s.flag .genv] s fun w =>
  reading s.gendeg (.noValue .gendeg) fun n =>
  check (i.toNat ≤ n.toNat) .operandRange w s <|
  reading s.gen (.noValue .gen) fun gen =>
  reading gen[i.toNat]? (.absentEntry .gen) fun b =>
  .next (s.setRes b)

/-- RDBIT i: read one bit of the bit stream (R108). -/
def execRdbit (i : Byte) (s : State) : Result :=
  command (.rdbit i) [s.flag .asmv] s fun w =>
  reading s.bitlen (.noValue .bitlen) fun n =>
  check (i.toNat < n.toNat) .operandRange w s <|
  reading s.bits[i.toNat]? (.absentEntry .bits) fun b =>
  .next (s.setRes (BitVec.ofBool b))

/-- RDCELL r, c: read one grid cell (R109). -/
def execRdcell (r c : BitVec 5) (s : State) : Result :=
  command (.rdcell r c) [] s fun w =>
  check (inGrid r.toNat c.toNat) .operandRange w s <|
  .next (s.setRes (s.g.read r.toNat c.toNat).code)

/-- RDFUNC r, c: read the function-cell predicate, which depends on no state (R110). -/
def execRdfunc (r c : BitVec 5) (s : State) : Result :=
  command (.rdfunc r c) [] s fun w =>
  check (inGrid r.toNat c.toNat) .operandRange w s <|
  .next (s.setRes (BitVec.ofBool (isFunction r.toNat c.toNat)))

end Sys2Proof.Machine
end

