-- ==== Sys2Proof/Machine/Dispatch.lean ====
section
/-! DEFINITION. One arm per command of the opcode map (30_encoding.md R83), each a direct call of its meaning. -/

namespace Sys2Proof.Machine

def exec (i : Instr) (s : State) : Host.Outcome State Fault Refusal :=
  match i with
  | .newreq => Sys2Proof.Machine.execNewreq s
  | .setlvl t => Sys2Proof.Machine.execSetlvl t s
  | .msgch cp => Sys2Proof.Machine.execMsgch cp s
  | .dcwpush b => Sys2Proof.Machine.execDcwpush b s
  | .rddcw k => Sys2Proof.Machine.execRddcw k s
  | .rdecw k => Sys2Proof.Machine.execRdecw k s
  | .rdgen k => Sys2Proof.Machine.execRdgen k s
  | .rdbit k => Sys2Proof.Machine.execRdbit k s
  | .rdcell r c => Sys2Proof.Machine.execRdcell r c s
  | .rdfunc r c => Sys2Proof.Machine.execRdfunc r c s
  | .gfexp k => Sys2Proof.Machine.execGfexp k s
  | .gflog v => Sys2Proof.Machine.execGflog v s
  | .gfadd a b => Sys2Proof.Machine.execGfadd a b s
  | .gfmul a b => Sys2Proof.Machine.execGfmul a b s
  | .rsgen n => Sys2Proof.Machine.execRsgen n s
  | .rsgenl => Sys2Proof.Machine.execRsgenl s
  | .rsenc => Sys2Proof.Machine.execRsenc s
  | .bsmode => Sys2Proof.Machine.execBsmode s
  | .bschk => Sys2Proof.Machine.execBschk s
  | .bsasm => Sys2Proof.Machine.execBsasm s
  | .bspad => Sys2Proof.Machine.execBspad s
  | .fplace => Sys2Proof.Machine.execFplace s
  | .zzinit => Sys2Proof.Machine.execZzinit s
  | .zzstep => Sys2Proof.Machine.execZzstep s
  | .zzrun => Sys2Proof.Machine.execZzrun s
  | .maskap id => Sys2Proof.Machine.execMaskap id s
  | .penalty => Sys2Proof.Machine.execPenalty s
  | .masksel => Sys2Proof.Machine.execMasksel s
  | .fmtwr id => Sys2Proof.Machine.execFmtwr id s

end Sys2Proof.Machine
end

