-- ==== Sys2Proof/Machine/Step.lean ====
section
/-! DEFINITION. One step of the core (40_system_host.md R100): take the host's next input; a command word is decoded
and performed, an illegal word raises IllegalCommand, a pulse on rst resets, no input changes nothing. -/

namespace Sys2Proof.Machine

/-- One step (R20, R100, R300). -/
def step (s : State) : Host.Outcome State Fault Refusal :=
  match takeInput s with
  | .none => idleStep s
  | .rst t => resetEvent t
  | .command w t =>
    match decode w with
    | some i => exec i t
    | none => illegalCommand w t

/-- The state in which the host presents one word of the opcode table next, before whatever it presents already. A
command is one word of 32 bits and there is no program memory (R23, R80); the core runs the word the host gives it. -/
def State.withFetchWord (s : State) (nbits w : Nat) : State :=
  { s with inbox := .command (BitVec.ofNat 32 (w % 2 ^ nbits)) :: s.inbox }

end Sys2Proof.Machine
end

