-- ==== Sys2Proof/Safety.lean ====
section
/-! DEFINITION. What counts as a safe state and a finished run of the core, and the tables the statements are written
with. Each table is read off the spec on its own, not off the meanings it is compared with: the precedence relation
(70_reset_and_hazards.md R304), the errors each command can raise (60_exceptions.md R274), the writers of RES (10_state.md
R24), the unassigned opcodes (30_encoding.md R85), repeated doubling (41_gf256.md R121), carry-less multiplication
(R127), the order of placement (44_matrix.md R207), the invariants of the state (10_state.md R42). -/

namespace Sys2Proof.Safety

open Sys2Proof.Machine

/-! ## End of a run (R310) -/

/-- A run that has ended in this state is successful (R310). -/
def successful (s : State) : Prop := s.err = 0

/-- A run that has ended in this state is a complete encode: the grid is the finished symbol (R310, R281). -/
def completeEncode (s : State) : Prop := s.err = 0 ∧ s.flag .done = true

/-- A complete encode of the named CORE alone (R310). -/
def completeCore (s : State) : Prop := s.err = 0 ∧ s.flag .plv = true

/-! ## Errors -/

/-- The state after an error of a given code for a given word: ERR, ERRCMD and STATUS bit 15 (R275). -/
def raised (s : State) (code : BitVec 4) (w : Word) : State :=
  { s with err := code, errcmd := w, status := s.status ||| 0x8000 }

/-- The flags a command needs to be 1, the second column of R304's table. -/
def needsOne : Instr → List Flag
  | .bsmode => [.lvlv]
  | .bschk => [.modev]
  | .bsasm => [.chkv]
  | .bspad => [.asmv]
  | .rsgenl => [.lvlv]
  | .rsenc => [.dcwv, .genv]
  | .zzinit => [.fpv, .ecwv]
  | .maskap _ => [.plv]
  | .fmtwr _ => [.plv, .lvlv]
  | .penalty => [.plv, .fmtv]
  | .masksel => [.plv, .lvlv]
  | .rddcw _ => [.dcwv]
  | .rdecw _ => [.ecwv]
  | .rdgen _ => [.genv]
  | .rdbit _ => [.asmv]
  | .newreq | .setlvl _ | .msgch _ | .dcwpush _ | .rdcell _ _ | .rdfunc _ _ | .gfexp _ | .gflog _
  | .gfadd _ _ | .gfmul _ _ | .rsgen _ | .fplace | .zzstep | .zzrun => []

/-- The flags a command needs to be 0, the third column of R304's table. -/
def needsZero : Instr → List Flag
  | .setlvl _ => [.lvlv]
  | .msgch _ => [.modev, .raw]
  | .dcwpush _ => [.modev, .ecwv]
  | .bsmode => [.modev, .raw]
  | .bschk => [.chkv]
  | .bsasm => [.asmv]
  | .bspad => [.padv]
  | .rsgen _ => [.genv]
  | .rsgenl => [.genv]
  | .rsenc => [.ecwv]
  | .fplace => [.fpv]
  | .maskap _ => [.done]
  | .fmtwr _ => [.done]
  | .masksel => [.done]
  | .newreq | .rddcw _ | .rdecw _ | .rdgen _ | .rdbit _ | .rdcell _ _ | .rdfunc _ _ | .gfexp _
  | .gflog _ | .gfadd _ _ | .gfmul _ _ | .zzinit | .zzstep | .zzrun | .penalty => []

/-- The conditions of R304's table that are not on a flag: the writer's state and MSKPAR. -/
def needsState (i : Instr) (s : State) : Bool :=
  match i with
  | .zzinit => s.zst == .idle
  | .zzstep => s.zst == .run
  | .zzrun => s.zst == .run
  | .masksel => s.mskpar == 0
  | .newreq | .setlvl _ | .msgch _ | .dcwpush _ | .rddcw _ | .rdecw _ | .rdgen _ | .rdbit _
  | .rdcell _ _ | .rdfunc _ _ | .gfexp _ | .gflog _ | .gfadd _ _ | .gfmul _ _ | .rsgen _ | .rsgenl
  | .rsenc | .bsmode | .bschk | .bsasm | .bspad | .fplace | .maskap _ | .penalty | .fmtwr _ => true

/-- The command is in pipeline order (R304). -/
def inOrder (i : Instr) (s : State) : Bool :=
  (needsOne i).all (s.flag ·) && (needsZero i).all (!s.flag ·) && needsState i s

/-- The errors a command can raise, by their codes in ERR (the second table of R274). -/
def mayRaise : Instr → List (BitVec 4)
  | .setlvl _ => [5, 1]
  | .msgch _ => [5, 6, 7]
  | .dcwpush _ => [5, 7]
  | .rddcw _ | .rdecw _ | .rdgen _ | .rdbit _ => [5, 6]
  | .rdcell _ _ | .rdfunc _ _ => [6]
  | .gflog _ => [8]
  | .rsgen _ | .rsenc => [5, 6]
  | .rsgenl | .bsasm | .bspad | .fplace | .zzinit | .zzstep | .zzrun | .maskap _ | .penalty | .masksel
  | .fmtwr _ => [5]
  | .bsmode => [5, 2]
  | .bschk => [5, 3]
  | .newreq | .gfexp _ | .gfadd _ _ | .gfmul _ _ => []

/-- The commands whose rule writes RES (R24); NEWREQ resets it (R101). -/
def writesRes : Instr → Bool
  | .gfexp _ | .gflog _ | .gfadd _ _ | .gfmul _ _ | .rddcw _ | .rdecw _ | .rdgen _ | .rdbit _ | .rdcell _ _
  | .rdfunc _ _ | .bsmode | .bschk | .penalty | .masksel => true
  | .newreq | .setlvl _ | .msgch _ | .dcwpush _ | .rsgen _ | .rsgenl | .rsenc | .bsasm | .bspad
  | .fplace | .zzinit | .zzstep | .zzrun | .maskap _ | .fmtwr _ => false

/-! ## Encodings -/

/-- The opcodes R85 lists as unassigned. -/
def unassignedOpcode (op : Nat) : Bool :=
  op == 0 || (5 ≤ op && op ≤ 7) || op == 0x0E || op == 0x0F || (0x14 ≤ op && op ≤ 0x1F)
    || (0x23 ≤ op && op ≤ 0x2F) || (0x34 ≤ op && op ≤ 0x3F) || (0x44 ≤ op && op ≤ 0x4F)
    || (0x53 ≤ op && op ≤ 0x57) || (0x59 ≤ op && op ≤ 0xFF)

/-- The must-be-zero bits of an assigned opcode's format (R81, R83): the bits R81's table gives as 0. -/
def mustBeZero (op : Nat) : Word :=
  if op = 0x03 then 0x00E00000
  else if op = 0x0C ∨ op = 0x0D then 0x00FFE0E0
  else if op = 0x12 ∨ op = 0x13 then 0x00FF0000
  else if op = 0x50 ∨ op = 0x58 then 0x00FFFFF8
  else if op ∈ [0x02, 0x04, 0x08, 0x09, 0x0A, 0x0B, 0x10, 0x11, 0x20] then 0x00FFFF00
  else 0x00FFFFFF

/-! ## Field and polynomial arithmetic -/

/-- The i-th value recorded by the procedure of R121: start at 1, double, and XOR with 285 when the result exceeds
255. -/
def doubling : Nat → Nat
  | 0 => 1
  | i + 1 => if 255 < doubling i * 2 then (doubling i * 2) ^^^ 285 else doubling i * 2

/-- Carry-less multiplication of two bytes (R127). -/
def carrylessProduct (x y : Nat) : Nat :=
  (List.range 8).foldl (fun p k => if y.testBit k then p ^^^ (x <<< k) else p) 0

/-- Reduction of a polynomial of degree at most 14 modulo 0x11D (R120, R127). -/
def reducedModulo (p : Nat) : Nat :=
  [14, 13, 12, 11, 10, 9, 8].foldl (fun p k => if p.testBit k then p ^^^ (0x11D <<< (k - 8)) else p) p

/-- The value of a polynomial at a point, highest power first (R140). -/
def valueAt (log1 : Byte) (p : List Byte) (x : Byte) : Byte :=
  p.foldl (fun v c => gfAdd (gfMul log1 v x) c) 0

/-- LOG1 is one of its two legal values (P2). -/
def legalLog1 (log1 : Byte) : Prop := log1 = 255 ∨ log1 = 0

/-! ## Placement -/

/-- The map of R207: the index of the bit each data cell receives; x marks a function cell. -/
def placementMap : List (List Nat) :=
  let x := 999
  [[x, x, x, x, x, x, x, x, x, 137, 136, 135, 134, x, x, x, x, x, x, x, x],
   [x, x, x, x, x, x, x, x, x, 139, 138, 133, 132, x, x, x, x, x, x, x, x],
   [x, x, x, x, x, x, x, x, x, 141, 140, 131, 130, x, x, x, x, x, x, x, x],
   [x, x, x, x, x, x, x, x, x, 143, 142, 129, 128, x, x, x, x, x, x, x, x],
   [x, x, x, x, x, x, x, x, x, 145, 144, 127, 126, x, x, x, x, x, x, x, x],
   [x, x, x, x, x, x, x, x, x, 147, 146, 125, 124, x, x, x, x, x, x, x, x],
   [x, x, x, x, x, x, x, x, x, x, x, x, x, x, x, x, x, x, x, x, x],
   [x, x, x, x, x, x, x, x, x, 149, 148, 123, 122, x, x, x, x, x, x, x, x],
   [x, x, x, x, x, x, x, x, x, 151, 150, 121, 120, x, x, x, x, x, x, x, x],
   [201, 200, 199, 198, 185, 184, x, 183, 182, 153, 152, 119, 118, 73, 72, 71, 70, 25, 24, 23, 22],
   [203, 202, 197, 196, 187, 186, x, 181, 180, 155, 154, 117, 116, 75, 74, 69, 68, 27, 26, 21, 20],
   [205, 204, 195, 194, 189, 188, x, 179, 178, 157, 156, 115, 114, 77, 76, 67, 66, 29, 28, 19, 18],
   [207, 206, 193, 192, 191, 190, x, 177, 176, 159, 158, 113, 112, 79, 78, 65, 64, 31, 30, 17, 16],
   [x, x, x, x, x, x, x, x, x, 161, 160, 111, 110, 81, 80, 63, 62, 33, 32, 15, 14],
   [x, x, x, x, x, x, x, x, x, 163, 162, 109, 108, 83, 82, 61, 60, 35, 34, 13, 12],
   [x, x, x, x, x, x, x, x, x, 165, 164, 107, 106, 85, 84, 59, 58, 37, 36, 11, 10],
   [x, x, x, x, x, x, x, x, x, 167, 166, 105, 104, 87, 86, 57, 56, 39, 38, 9, 8],
   [x, x, x, x, x, x, x, x, x, 169, 168, 103, 102, 89, 88, 55, 54, 41, 40, 7, 6],
   [x, x, x, x, x, x, x, x, x, 171, 170, 101, 100, 91, 90, 53, 52, 43, 42, 5, 4],
   [x, x, x, x, x, x, x, x, x, 173, 172, 99, 98, 93, 92, 51, 50, 45, 44, 3, 2],
   [x, x, x, x, x, x, x, x, x, 175, 174, 97, 96, 95, 94, 49, 48, 47, 46, 1, 0]]

/-- The index of the bit that data cell (r, c) receives (R207); none for a function cell. -/
def placementIndex (r c : Nat) : Option Nat :=
  match placementMap[r]? with
  | some row =>
    match row[c]? with
    | some n => if n < 208 then some n else none
    | none => none
  | none => none

/-- `cbit(n)`: bit 7 − n mod 8 of CW[n div 8] (R199); false at n ≥ TOTBITS, where no statement asks for it. -/
def combinedBit (cw : List Byte) (n : Nat) : Bool :=
  match cw[n / 8]? with
  | some b => b.getLsbD (7 - n % 8)
  | none => false

/-- The place of a column's strip in the order walked, 0 to 9 (R201); column 6 is in none. -/
def stripIndex (c : Nat) : Nat := if 7 ≤ c then (20 - c) / 2 else (5 - c) / 2 + 7

/-- The strip's direction is upward (R201). -/
def stripUp (c : Nat) : Bool := stripIndex c % 2 == 0

/-- The column is the left one of its strip (R201). -/
def leftColumn (c : Nat) : Bool := if 7 ≤ c then (20 - c) % 2 == 1 else (5 - c) % 2 == 1

/-- The step, 0 to 419, at which the walk visits cell (r, c): 42 steps a strip, two a row, right before left (R200,
R201, R205). -/
def visitStep (r c : Nat) : Nat :=
  42 * stripIndex c + 2 * (if stripUp c then 20 - r else r) + (leftColumn c).toNat

/-- The steps taken when the cursor stands at a cell. -/
def stepsTaken (k : Cursor) : Nat := visitStep k.zr.toNat k.column

/-- The number of data cells visited before a step (R205). -/
def dataVisited (n : Nat) : Nat :=
  (List.range 441).countP fun a => !isFunction (a / 21) (a % 21) && a % 21 != 6 && visitStep (a / 21) (a % 21) < n

/-- Whether the walk has visited data cell (r, c) in this state (R202, R205). -/
def visited (s : State) (r c : Nat) : Bool :=
  match s.zst, s.cursor with
  | .run, some k => visitStep r c < stepsTaken k
  | .done, _ => true
  | _, _ => false

/-- TOTBITS (R199). -/
def totBits (s : State) : Nat := 8 * (s.dlen.toNat + s.elen.toNat)

/-- The picture of the grid after FPLACE (44_matrix.md, after R198): # Dark, o Light, . Unset. -/
def patternPicture : List String :=
  ["#######o.....o#######",
   "#ooooo#o.....o#ooooo#",
   "#o###o#o.....o#o###o#",
   "#o###o#o.....o#o###o#",
   "#o###o#o.....o#o###o#",
   "#ooooo#o.....o#ooooo#",
   "#######o#o#o#o#######",
   "oooooooo.....oooooooo",
   "......#..............",
   "......o..............",
   "......#..............",
   "......o..............",
   "......#..............",
   "oooooooo#............",
   "#######o.............",
   "#ooooo#o.............",
   "#o###o#o.............",
   "#o###o#o.............",
   "#o###o#o.............",
   "#ooooo#o.............",
   "#######o............."]

/-- The module a picture's character stands for. -/
def pictured (ch : Char) : GridModule := if ch = '#' then .dark else if ch = 'o' then .light else .unset

/-! ## Masks -/

/-- Whether the masks that MSKPAR records flip cell (r, c): the parity of the recorded masks whose formula holds there
(R32, R233). -/
def maskedBy (mskpar : BitVec 8) (r c : Nat) : Bool :=
  (List.range 8).foldl (fun p k => p ^^ (mskpar.getLsbD k && maskFormula (BitVec.ofNat 3 k) r c)) false

/-- The blocks of R231's table, one for each id, row by row: 1 where the formula holds. -/
def printedMaskBlocks : List (List String) :=
  [["101010", "010101", "101010", "010101", "101010", "010101"],
   ["111111", "000000", "111111", "000000", "111111", "000000"],
   ["100100", "100100", "100100", "100100", "100100", "100100"],
   ["100100", "001001", "010010", "100100", "001001", "010010"],
   ["111000", "111000", "000111", "000111", "111000", "111000"],
   ["111111", "100000", "100100", "101010", "100100", "100000"],
   ["111111", "111000", "110110", "101010", "101101", "100011"],
   ["101010", "000111", "100011", "010101", "111000", "011100"]]

/-- The five cells of a line from index i on are of one colour (R238). -/
def likeWindow (cells : List GridModule) (i : Nat) : Bool :=
  cells[i]? == cells[i + 1]? && cells[i]? == cells[i + 2]? && cells[i]? == cells[i + 3]? && cells[i]? == cells[i + 4]?

/-- The characters of a picture of some cells: # Dark, o Light, . Unset. -/
def pictureOf (cells : List GridModule) : List Char :=
  cells.map fun m => match m with
    | .dark => '#'
    | .light => 'o'
    | .unset => '.'

/-- The matches of the two printed 11-cell patterns in a line, at i = 0..10: the default of N3FN (R242, R243). -/
def printedMatches (cells : List GridModule) : Nat :=
  (List.range 11).countP (fun i => pictureOf ((cells.drop i).take 11) == "#o###o#oooo".toList) +
  (List.range 11).countP (fun i => pictureOf ((cells.drop i).take 11) == "oooo#o###o#".toList)

/-! ## The invariants of the state (R42) -/

/-- What every state reachable from reset by commands satisfies: the items of R42 with the facts their proofs rest on.
The premises on CFG (R10) are its first field. -/
structure Inv (s : State) : Prop where
  /-- The premises on CFG and the parameters (R10). -/
  cfgWf : s.cfg.wf = true
  /-- R42 item 1. -/
  faultIff : s.flag .fault = true ↔ s.err ≠ 0
  /-- Codes 9 to 15 never occur (R30). -/
  errLegal : s.err.toNat ≤ 8
  /-- ERRCMD is 0 while ERR is 0 (R31). -/
  errcmdZero : s.err = 0 → s.errcmd = 0
  /-- STATUS bits 13 and 14 read as 0 (R29). -/
  reservedZero : s.status.getLsbD 13 = false ∧ s.status.getLsbD 14 = false
  /-- LEVEL holds a value exactly while LVLV is 1 (R25). -/
  levelHeld : s.level.isSome = s.flag .lvlv
  /-- MODE holds a value exactly while MODEV is 1 (R25). -/
  modeHeld : s.mode.isSome = s.flag .modev
  /-- REQBITS holds a value exactly while CHKV is 1 (R26). -/
  reqbitsHeld : s.reqbits.isSome = s.flag .chkv
  /-- BITLEN holds a value exactly while ASMV is 1 (R26). -/
  bitlenHeld : s.bitlen.isSome = s.flag .asmv
  /-- GENDEG and GEN hold values exactly while GENV is 1 (R26, R41). -/
  genHeld : s.gendeg.isSome = s.flag .genv ∧ s.gen.isSome = s.flag .genv
  /-- BEST and BESTPEN hold values exactly while DONE is 1 (R32). -/
  bestHeld : s.best.isSome = s.flag .done ∧ s.bestpen.isSome = s.flag .done
  /-- The cursor holds a value exactly while ZST is not IDLE (R27). -/
  cursorHeld : s.cursor.isSome = (s.zst != .idle)
  /-- Each buffer holds as many entries as its length register says (R26). -/
  lengths : s.msg.length = s.msglen.toNat ∧ s.dcw.length = s.dlen.toNat ∧ s.ecw.length = s.elen.toNat ∧
    (∀ n, s.bitlen = some n → s.bits.length = n.toNat)
  /-- The ranges of MSG and DCW (R11, R26). -/
  ranges : s.msglen.toNat ≤ s.cfg.msgMax ∧ (∀ cp ∈ s.msg, cp.toNat ≤ s.cfg.cpMax) ∧ s.dlen.toNat ≤ 25
  /-- R42 item 2. -/
  order2 : (s.flag .chkv = true → s.flag .modev = true) ∧
    (s.flag .modev = true → s.flag .lvlv = true ∧ s.flag .raw = false)
  /-- R42 item 3. -/
  order3 : (s.flag .padv = true → s.flag .asmv = true) ∧ (s.flag .asmv = true → s.flag .chkv = true)
  /-- R42 item 4. -/
  order4 : s.flag .padv = true → s.flag .dcwv = true ∧
    (∀ l, s.level = some l → s.dlen.toNat = s.cfg.cap.get l) ∧
    (∀ n, s.bitlen = some n → n.toNat = 8 * s.dlen.toNat)
  /-- R42 item 5. -/
  order5 : s.flag .raw = true → s.flag .dcwv = true ∧ 1 ≤ s.dlen.toNat ∧ s.flag .modev = false
  /-- Data codewords come from BSPAD or DCWPUSH alone (R29); without them DLEN is 0 (R26). -/
  dataFrom : (s.flag .dcwv = true → (s.flag .padv = true ∨ s.flag .raw = true) ∧ 1 ≤ s.dlen.toNat) ∧
    (s.flag .dcwv = false → s.dlen = 0)
  /-- R42 item 6. -/
  order6 : (s.flag .ecwv = true → s.flag .dcwv = true ∧ s.flag .genv = true ∧ s.gendeg = some s.elen ∧
    s.dlen.toNat + s.elen.toNat ≤ 26) ∧ (s.flag .ecwv = false → s.elen = 0)
  /-- R42 item 7. -/
  order7 : s.zst ≠ .idle → s.flag .fpv = true ∧ s.flag .ecwv = true
  /-- R42 item 8. -/
  order8 : s.flag .plv = true ↔ s.zst = .done
  /-- R42 item 9. -/
  order9 : s.flag .done = true → s.flag .plv = true ∧ s.flag .lvlv = true ∧ s.flag .fmtv = true ∧
    (∀ b, s.best = some b → s.mskpar = 1#8 <<< b.toNat)
  /-- Masks and format information come after placement (R235, R265). -/
  afterPlacement : (s.flag .fmtv = true → s.flag .plv = true ∧ s.flag .lvlv = true) ∧
    (s.mskpar ≠ 0 → s.flag .plv = true)
  /-- MODE is the message's (R161, R162, R174). -/
  modeValue : ∀ m, s.mode = some m → m = detectMode s.cfg s.msg ∧ (m = .byte → checkBytes s.msg = true)
  /-- REQBITS is the message's and within the capacity (R164, R165). -/
  reqValue : ∀ q m l, s.reqbits = some q → s.mode = some m → s.level = some l →
    q.toNat = requiredBits m s.msg.length ∧ q.toNat ≤ capBits s.cfg l
  /-- Before padding, BITLEN is REQBITS (R176). -/
  bitlenValue : s.flag .padv = false → ∀ n q, s.bitlen = some n → s.reqbits = some q → n.toNat = q.toNat
  /-- GEN is the generator polynomial of degree GENDEG (R146, R147). -/
  genValue : ∀ n, s.gendeg = some n → 1 ≤ n.toNat ∧ n.toNat ≤ 25 ∧ s.gen = some (rsGen s.cfg.log1 n.toNat)
  /-- ECW holds the EC codewords of DCW (R29, R148). -/
  ecwValue : s.flag .ecwv = true → s.ecw = rsEncode s.cfg.log1 s.dcw s.elen.toNat
  /-- The grid is in canonical form. -/
  gridWf : Memory.wf s.g = true
  /-- R42 item 11; before FPLACE the grid is blank (R190). -/
  drawn : (s.flag .fpv = true → ∀ r c m, r ≤ 20 → c ≤ 20 → drawnAt r c = some m → s.g.read r c = m) ∧
    (s.flag .fpv = false → s.g = [])
  /-- A data cell is set exactly when the walk has visited it (R203, R205; at PLV = 1 this is R42 item 12). -/
  dataCells : ∀ r c, r ≤ 20 → c ≤ 20 → isFunction r c = false → (s.g.read r c ≠ .unset ↔ visited s r c = true)
  /-- A format cell is set exactly when format information has been written (R195, R266). -/
  formatCells : ∀ r c, r ≤ 20 → c ≤ 20 → isFormat r c = true → (s.g.read r c ≠ .unset ↔ s.flag .fmtv = true)
  /-- While the writer runs, the cursor is on the path and ZN counts the bits consumed (R202 to R205). -/
  cursorRun : s.zst = .run → ∀ k, s.cursor = some k → k.onPath = true ∧ k.zup = stripUp k.zc.toNat ∧
    k.zn.toNat = min (totBits s) (dataVisited (stepsTaken k))
  /-- When the writer is done, the cursor is where R205 says. -/
  cursorDone : s.zst = .done → ∀ k, s.cursor = some k → k.zc = 1 ∧ k.zr = 20 ∧ k.zk = false ∧ k.zup = true ∧
    k.zn.toNat = totBits s

/-- Every data cell that has been visited holds its bit of the combined bit string, flipped by the masks MSKPAR
records; past the end of the string the bit is 0 (R203, R206, R212, R232). -/
def PlacedBits (s : State) : Prop :=
  ∀ r c n, r ≤ 20 → c ≤ 20 → placementIndex r c = some n → visited s r c = true →
    s.g.read r c = colourOf ((decide (n < totBits s) && combinedBit (s.dcw ++ s.ecw) n) ^^ maskedBy s.mskpar r c)

end Sys2Proof.Safety
end

