-- ==== Sys2Proof/Certificates/Slice0/Obligations.lean ====
section
/-! DEFINITION. The statements about the core, for the provers. Each is about every state (or every state that meets
its premises), never about a program. `raised s code w` is the state after an error: ERR, ERRCMD and STATUS bit 15, and
nothing else. A right side that is a whole state says also what the command leaves unchanged. -/

open Sys2Proof Sys2Proof.Machine Sys2Proof.Safety

/-! ## Encoding -/

/-- Words written out from the spec's encodings decode to the commands they stand for, one or more of each unit, and
words with a must-be-zero bit or an unassigned opcode decode to nothing (R81, R83; the vectors V-DE of
95_test_vectors.md). -/
def Obligations.DecodeMatchesPrintedWords : Prop :=
  decode 0x01000000 = some .newreq ∧ decode 0x02000051 = some (.setlvl 0x51) ∧
  decode 0x030020AC = some (.msgch 0x20AC) ∧ decode 0x0C000D08 = some (.rdcell 13 8) ∧
  decode 0x13000280 = some (.gfmul 0x02 0x80) ∧ decode 0x20000007 = some (.rsgen 7) ∧
  decode 0x31000000 = some .bschk ∧ decode 0x43000000 = some .zzrun ∧
  decode 0x50000007 = some (.maskap 7) ∧ decode 0x58000006 = some (.fmtwr 6) ∧
  decode 0x03200000 = none ∧ decode 0x0C002000 = none ∧ decode 0x0C000020 = none ∧ decode 0x13010203 = none ∧
  decode 0x21000001 = none ∧ decode 0x50000008 = none ∧ decode 0x00000000 = none ∧ decode 0xFFFFFFFF = none

/-- Decoding the word of a command gives the command back, with every operand at every value of its field. -/
def Obligations.DecodeInvertsEncode : Prop := ∀ i : Instr, decode (encode i) = some i

/-- A word that decodes to a command is the word of that command: no bit of a legal word is dropped, so ERRCMD, which
the model writes from the command, is the word the host gave (log 5). -/
def Obligations.EncodeInvertsDecode : Prop := ∀ (w : Word) (i : Instr), decode w = some i → encode i = w

/-- R85: the illegal words are those with an unassigned opcode and those with a 1 in a must-be-zero bit; the all-zero
and the all-ones word are among them. -/
def Obligations.IllegalWordsAreTheUnassigned : Prop :=
  (∀ w : Word, decode w = none ↔
    unassignedOpcode (w.toNat / 2 ^ 24) = true ∨ w &&& mustBeZero (w.toNat / 2 ^ 24) ≠ 0) ∧
  decode 0x00000000 = none ∧ decode 0xFFFFFFFF = none

/-! ## The step -/

/-- A step on a word that decodes performs the decoded command on the state with that input taken (R100). -/
def Obligations.StepPerformsDecodedCommand : Prop :=
  ∀ (s : State) (w : Word) (rest : List HostInput) (i : Instr),
    s.inbox = .command w :: rest → decode w = some i → step s = exec i { s with inbox := rest }

/-- A step on an illegal word while ERR = 0: ERR becomes 4, ERRCMD the word, FAULT 1, and nothing else changes (R85,
R100, R274). -/
def Obligations.StepRaisesIllegalCommand : Prop :=
  ∀ (s : State) (w : Word) (rest : List HostInput),
    s.inbox = .command w :: rest → decode w = none → s.err = 0 →
      step s = .next (raised { s with inbox := rest } 4 w)

/-- A pulse on rst takes any state to the reset state, CFG and the host's remaining inputs kept; with no input nothing
changes. What stands in `inbox`, and that an idle step changes nothing, are the model's own (log 2, log 3, log 4). -/
def Obligations.ResetAndIdleSteps : Prop :=
  (∀ (s : State) (rest : List HostInput), s.inbox = .rst :: rest → step s = .next (State.fresh s.cfg rest)) ∧
  (∀ s : State, s.inbox = [] → step s = .next s)

/-- R277: while ERR ≠ 0 every command word other than a legal NEWREQ changes no state at all. -/
def Obligations.FaultStateIgnoresEverything : Prop :=
  ∀ (s : State) (w : Word) (rest : List HostInput),
    s.inbox = .command w :: rest → s.err ≠ 0 → w ≠ 0x01000000 → step s = .next { s with inbox := rest }

/-! ## Errors -/

/-- R275, R276: a command that raises writes ERR, ERRCMD and FAULT and nothing else, whatever the command and the
error. -/
def Obligations.RaisingWritesThreeRegisters : Prop :=
  ∀ (i : Instr) (s t : State), s.err = 0 → exec i s = .next t → t.err ≠ 0 → t = raised s t.err (encode i)

/-- The precedence relation of R304: out of order, every command raises SequenceError (code 5); in order, none does. -/
def Obligations.SequenceErrorExactlyOutOfOrder : Prop :=
  ∀ (i : Instr) (s : State), s.err = 0 → i ≠ .newreq →
    (inOrder i s = false → exec i s = .next (raised s 5 (encode i))) ∧
    (inOrder i s = true → ∀ t, exec i s = .next t → t.err ≠ 5)

/-- The table "Errors each command can raise" of R274: a command raises no error that its row does not list. -/
def Obligations.OnlyListedErrorsRaised : Prop :=
  ∀ (i : Instr) (s t : State), s.err = 0 → exec i s = .next t → t.err = 0 ∨ t.err ∈ mayRaise i

/-- The three errors of the source are raised by one command each and for one cause each (R271, R272, R273). -/
def Obligations.SourceErrorsHaveOneCause : Prop :=
  ∀ (i : Instr) (s t : State), s.err = 0 → exec i s = .next t →
    (t.err = 1 → ∃ tok, i = .setlvl tok ∧ tok ≠ 0x4C ∧ tok ≠ 0x4D ∧ tok ≠ 0x51 ∧ tok ≠ 0x48) ∧
    (t.err = 2 → i = .bsmode ∧ ∃ msg, entries s.msg s.msglen.toNat = some msg ∧
      detectMode s.cfg msg = .byte ∧ ∃ cp ∈ msg, 255 < cp.toNat) ∧
    (t.err = 3 → i = .bschk ∧ ∃ m l, s.mode = some m ∧ s.level = some l ∧
      8 * s.cfg.cap.get l < requiredBits m s.msglen.toNat)

/-- R82, R278: a command whose operand lies outside its legal range raises an error whenever it is performed. -/
def Obligations.IllegalOperandAlwaysRaises : Prop :=
  ∀ (i : Instr) (s : State), i.wellFormed s.cfg = false → s.err = 0 →
    ∃ code, code ∈ mayRaise i ∧ exec i s = .next (raised s code (encode i))

/-! ## Rules over all commands -/

/-- R29: a flag is cleared only by NEWREQ and by reset: no other command clears any bit of STATUS. -/
def Obligations.FlagsNeverCleared : Prop :=
  ∀ (i : Instr) (s t : State), i ≠ .newreq → exec i s = .next t →
    ∀ b : Nat, s.status.getLsbD b = true → t.status.getLsbD b = true

/-- R24: a command whose rule does not write RES leaves it unchanged, and so does a faulting command. -/
def Obligations.ResOnlyByItsWriters : Prop :=
  ∀ (i : Instr) (s t : State), i ≠ .newreq → exec i s = .next t →
    (writesRes i = false ∨ t.err ≠ 0) → t.res = s.res

/-- CFG is the same after every step, reset among them (R21, R61, R302). That CFG stands in the state is the model's
choice (log 1). -/
def Obligations.ConfigurationNeverChanges : Prop :=
  ∀ s t : State, step s = .next t → t.cfg = s.cfg

/-- R198: after FPLACE no command but NEWREQ writes a drawn cell; the format cells are written by FMTWR and MASKSEL
alone; and no command but ZZSTEP, ZZRUN, MASKAP and MASKSEL writes a data cell. -/
def Obligations.FunctionCellsImmutable : Prop :=
  ∀ (i : Instr) (s t : State), s.cfg.wf = true → i ≠ .newreq → exec i s = .next t → ∀ r c, r ≤ 20 → c ≤ 20 →
    ((drawnAt r c).isSome = true → s.flag .fpv = true → t.g.read r c = s.g.read r c) ∧
    (isFormat r c = true → i ≠ .masksel → (∀ id, i ≠ .fmtwr id) → t.g.read r c = s.g.read r c) ∧
    (isFunction r c = false → i ≠ .zzstep → i ≠ .zzrun → i ≠ .masksel → (∀ id, i ≠ .maskap id) →
      t.g.read r c = s.g.read r c)

/-- R307: once DONE = 1 a command either is refused with SequenceError or another error, or changes RES alone. -/
def Obligations.FinishedSymbolReadOnly : Prop :=
  ∀ (i : Instr) (s t : State), Inv s → s.flag .done = true → i ≠ .newreq → exec i s = .next t →
    t = { s with res := t.res } ∨ ∃ code, t = raised s code (encode i)

/-- Products are never overwritten (R304, R305, with R161 and R199): LEVEL once LVLV = 1; the message and MODE once
MODEV = 1; REQBITS once CHKV = 1; BITS and BITLEN once ASMV = 1, but for the padding that BSPAD adds, and then the
padded BITS and the data codewords once PADV = 1; the generator once GENV = 1; all codewords once ECWV = 1; ZST and the
cursor once PLV = 1; BEST and BESTPEN once DONE = 1. MSGCH and DCWPUSH append before that, by design (R305). -/
def Obligations.ProductsAreFrozen : Prop :=
  ∀ (i : Instr) (s t : State), Inv s → i ≠ .newreq → exec i s = .next t →
    (s.flag .lvlv = true → t.level = s.level) ∧
    (s.flag .modev = true → t.msg = s.msg ∧ t.msglen = s.msglen ∧ t.mode = s.mode) ∧
    (s.flag .chkv = true → t.reqbits = s.reqbits) ∧
    (s.flag .asmv = true → i ≠ .bspad → t.bits = s.bits ∧ t.bitlen = s.bitlen) ∧
    (s.flag .padv = true → t.bits = s.bits ∧ t.bitlen = s.bitlen ∧ t.dcw = s.dcw ∧ t.dlen = s.dlen) ∧
    (s.flag .genv = true → t.gen = s.gen ∧ t.gendeg = s.gendeg) ∧
    (s.flag .ecwv = true → t.dcw = s.dcw ∧ t.dlen = s.dlen ∧ t.ecw = s.ecw ∧ t.elen = s.elen) ∧
    (s.flag .plv = true → t.zst = s.zst ∧ t.cursor = s.cursor) ∧
    (s.flag .done = true → t.best = s.best ∧ t.bestpen = s.bestpen)

/-! ## Invariants -/

/-- Every step from a state that meets the invariants of R42 gives a state that meets them. -/
def Obligations.StepKeepsInvariant : Prop := ∀ s t : State, Inv s → step s = .next t → Inv t

/-- The reset state meets the invariants. -/
def Obligations.ResetMeetsInvariant : Prop := Inv State.reset

/-- In a state that meets the invariants no step stops: whatever the host gives, the core answers with a next state.
The model's Fault outcomes are therefore never reached (log 6, 7, 10, 11). -/
def Obligations.StepNeverStops : Prop := ∀ s : State, Inv s → ∃ t, step s = .next t

/-- R42 items 4, 10, 12, 13 as the spec words them, from the invariants. -/
def Obligations.InvariantGivesTabledItems : Prop :=
  ∀ s : State, Inv s →
    (s.flag .padv = true → ∀ l, s.level = some l → s.bitlen = some (BitVec.ofNat 8 (8 * s.cfg.cap.get l)) ∧
      s.dcw.length = s.cfg.cap.get l) ∧
    (s.flag .padv = true → s.flag .ecwv = true → ∀ l, s.level = some l → s.elen.toNat = s.cfg.nec.get l →
      s.dlen.toNat + s.elen.toNat = 26) ∧
    (s.flag .plv = true → ∀ r c, r ≤ 20 → c ≤ 20 → isFormat r c = false → s.g.read r c ≠ .unset) ∧
    (s.flag .plv = true → s.flag .fmtv = true → ∀ r c, r ≤ 20 → c ≤ 20 → s.g.read r c ≠ .unset)

/-- Every step keeps the placed bits: each visited data cell holds the bit that the map of R207 gives it, flipped by
the masks that MSKPAR records, through placement, masking and selection. -/
def Obligations.StepKeepsPlacedBits : Prop :=
  ∀ s t : State, Inv s → PlacedBits s → step s = .next t → PlacedBits t

/-! ## Host commands -/

/-- R101: NEWREQ, in the fault state or not, gives every piece of state its reset value; CFG is untouched (and the
host's remaining inputs, which are no state of the core, log 2). -/
def Obligations.NewreqRestoresReset : Prop :=
  encode .newreq = 0x01000000 ∧
  ∀ s : State, exec .newreq s = .next
    { inbox := s.inbox, cfg := s.cfg, res := 0, status := 0, err := 0, errcmd := 0, level := none, mode := none,
      msglen := 0, reqbits := none, bitlen := none, dlen := 0, elen := 0, gendeg := none, msg := [], bits := [],
      dcw := [], ecw := [], gen := none, g := [], zst := .idle, cursor := none, mskpar := 0, best := none,
      bestpen := none }

/-- R102: SETLVL takes the four upper-case tokens, refuses every other byte, and runs once a request. -/
def Obligations.SetlvlTakesToken : Prop :=
  (∀ t : Byte, encode (.setlvl t) = 0x02000000 + t.setWidth 32) ∧
  ∀ s : State, s.err = 0 →
    (s.flag .lvlv = true → ∀ t, exec (.setlvl t) s = .next (raised s 5 (encode (.setlvl t)))) ∧
    (s.flag .lvlv = false →
      exec (.setlvl 0x4C) s = .next { s with level := some .L, status := s.status ||| 0x0001 } ∧
      exec (.setlvl 0x4D) s = .next { s with level := some .M, status := s.status ||| 0x0001 } ∧
      exec (.setlvl 0x51) s = .next { s with level := some .Q, status := s.status ||| 0x0001 } ∧
      exec (.setlvl 0x48) s = .next { s with level := some .H, status := s.status ||| 0x0001 } ∧
      ∀ t, t ≠ 0x4C → t ≠ 0x4D → t ≠ 0x51 → t ≠ 0x48 →
        exec (.setlvl t) s = .next (raised s 1 (encode (.setlvl t))))

/-- R103: MSGCH appends one character; the range of the code point is checked before the room in MSG. -/
def Obligations.MsgchAppends : Prop :=
  (∀ cp : CodePoint, encode (.msgch cp) = 0x03000000 + cp.setWidth 32) ∧
  ∀ (s : State) (cp : CodePoint), s.err = 0 →
    ((s.flag .modev = true ∨ s.flag .raw = true) →
      exec (.msgch cp) s = .next (raised s 5 (encode (.msgch cp)))) ∧
    (s.flag .modev = false → s.flag .raw = false →
      (s.cfg.cpMax < cp.toNat → exec (.msgch cp) s = .next (raised s 6 (encode (.msgch cp)))) ∧
      (cp.toNat ≤ s.cfg.cpMax → s.cfg.msgMax ≤ s.msglen.toNat →
        exec (.msgch cp) s = .next (raised s 7 (encode (.msgch cp)))) ∧
      (cp.toNat ≤ s.cfg.cpMax → s.msglen.toNat < s.cfg.msgMax → s.msg.length = s.msglen.toNat →
        exec (.msgch cp) s = .next { s with msg := s.msg ++ [cp], msglen := s.msglen + 1 }))

/-- R104: DCWPUSH appends one data codeword and puts the request on the raw path. -/
def Obligations.DcwpushAppends : Prop :=
  (∀ b : Byte, encode (.dcwpush b) = 0x04000000 + b.setWidth 32) ∧
  ∀ (s : State) (b : Byte), s.err = 0 →
    ((s.flag .modev = true ∨ s.flag .ecwv = true) →
      exec (.dcwpush b) s = .next (raised s 5 (encode (.dcwpush b)))) ∧
    (s.flag .modev = false → s.flag .ecwv = false →
      (25 ≤ s.dlen.toNat → exec (.dcwpush b) s = .next (raised s 7 (encode (.dcwpush b)))) ∧
      (s.dlen.toNat < 25 → s.dcw.length = s.dlen.toNat →
        exec (.dcwpush b) s =
          .next { s with dcw := s.dcw ++ [b], dlen := s.dlen + 1, status := s.status ||| 0x0810 }))

/-- R105, R106: RDDCW and RDECW put one codeword in RES, and raise SequenceError without codewords and OperandRange at
or beyond the length. -/
def Obligations.RddcwRdecwReadCodewords : Prop :=
  (∀ i : Byte, encode (.rddcw i) = 0x08000000 + i.setWidth 32 ∧ encode (.rdecw i) = 0x09000000 + i.setWidth 32) ∧
  ∀ (s : State) (i b : Byte), s.err = 0 →
    (s.flag .dcwv = false → exec (.rddcw i) s = .next (raised s 5 (encode (.rddcw i)))) ∧
    (s.flag .dcwv = true → s.dlen.toNat ≤ i.toNat → exec (.rddcw i) s = .next (raised s 6 (encode (.rddcw i)))) ∧
    (s.flag .dcwv = true → i.toNat < s.dlen.toNat → s.dcw[i.toNat]? = some b →
      exec (.rddcw i) s = .next { s with res := b.setWidth 32 }) ∧
    (s.flag .ecwv = false → exec (.rdecw i) s = .next (raised s 5 (encode (.rdecw i)))) ∧
    (s.flag .ecwv = true → s.elen.toNat ≤ i.toNat → exec (.rdecw i) s = .next (raised s 6 (encode (.rdecw i)))) ∧
    (s.flag .ecwv = true → i.toNat < s.elen.toNat → s.ecw[i.toNat]? = some b →
      exec (.rdecw i) s = .next { s with res := b.setWidth 32 })

/-- R107, R108: RDGEN reads GEN[0..GENDEG], RDBIT reads BITS[0..BITLEN−1]. -/
def Obligations.RdgenRdbitReadEntries : Prop :=
  (∀ i : Byte, encode (.rdgen i) = 0x0A000000 + i.setWidth 32 ∧ encode (.rdbit i) = 0x0B000000 + i.setWidth 32) ∧
  ∀ (s : State) (i : Byte), s.err = 0 →
    (s.flag .genv = false → exec (.rdgen i) s = .next (raised s 5 (encode (.rdgen i)))) ∧
    (∀ n, s.flag .genv = true → s.gendeg = some n → n.toNat < i.toNat →
      exec (.rdgen i) s = .next (raised s 6 (encode (.rdgen i)))) ∧
    (∀ n gen (b : Byte), s.flag .genv = true → s.gendeg = some n → i.toNat ≤ n.toNat → s.gen = some gen →
      gen[i.toNat]? = some b → exec (.rdgen i) s = .next { s with res := b.setWidth 32 }) ∧
    (s.flag .asmv = false → exec (.rdbit i) s = .next (raised s 5 (encode (.rdbit i)))) ∧
    (∀ n, s.flag .asmv = true → s.bitlen = some n → n.toNat ≤ i.toNat →
      exec (.rdbit i) s = .next (raised s 6 (encode (.rdbit i)))) ∧
    (∀ n b, s.flag .asmv = true → s.bitlen = some n → i.toNat < n.toNat → s.bits[i.toNat]? = some b →
      exec (.rdbit i) s = .next { s with res := if b then 1 else 0 })

/-- R109, R110: RDCELL reads a cell as Unset 0, Light 1, Dark 2; RDFUNC answers the function predicate, whatever the
state holds. -/
def Obligations.RdcellRdfuncReadGrid : Prop :=
  (∀ r c : BitVec 5, encode (.rdcell r c) = 0x0C000000 + (r.setWidth 32 <<< 8) + c.setWidth 32 ∧
    encode (.rdfunc r c) = 0x0D000000 + (r.setWidth 32 <<< 8) + c.setWidth 32) ∧
  ∀ (s : State) (r c : BitVec 5), s.err = 0 →
    ((20 < r.toNat ∨ 20 < c.toNat) →
      exec (.rdcell r c) s = .next (raised s 6 (encode (.rdcell r c))) ∧
      exec (.rdfunc r c) s = .next (raised s 6 (encode (.rdfunc r c)))) ∧
    (r.toNat ≤ 20 → c.toNat ≤ 20 →
      (s.g.read r.toNat c.toNat = .unset → exec (.rdcell r c) s = .next { s with res := 0 }) ∧
      (s.g.read r.toNat c.toNat = .light → exec (.rdcell r c) s = .next { s with res := 1 }) ∧
      (s.g.read r.toNat c.toNat = .dark → exec (.rdcell r c) s = .next { s with res := 2 }) ∧
      exec (.rdfunc r c) s = .next { s with res :=
        if (r.toNat ≤ 8 ∧ c.toNat ≤ 8) ∨ (r.toNat ≤ 8 ∧ 13 ≤ c.toNat) ∨ (13 ≤ r.toNat ∧ c.toNat ≤ 8) ∨
          r.toNat = 6 ∨ c.toNat = 6 then 1 else 0 })

/-! ## The field unit -/

/-- R128 with R121: GFEXP i puts the i-th value of repeated doubling in RES; R129 with R123: GFLOG v puts in RES the
last index that was recorded for v, and raises LogZero for v = 0 (R124). For v = 1 it is the parameter LOG1, of which
R129 prints the default 255: that every LOG1 is taken is log 15. -/
def Obligations.GfexpGflogReadTables : Prop :=
  (∀ i : Byte, encode (.gfexp i) = 0x10000000 + i.setWidth 32 ∧ encode (.gflog i) = 0x11000000 + i.setWidth 32) ∧
  ∀ s : State, s.err = 0 →
    (∀ i : Byte, exec (.gfexp i) s = .next { s with res := BitVec.ofNat 32 (doubling i.toNat) }) ∧
    exec (.gflog 0) s = .next (raised s 8 (encode (.gflog 0))) ∧
    exec (.gflog 1) s = .next { s with res := s.cfg.log1.setWidth 32 } ∧
    (∀ v : Byte, 1 < v.toNat → ∃ l : Byte, 1 ≤ l.toNat ∧ l.toNat ≤ 254 ∧ doubling l.toNat = v.toNat ∧
      exec (.gflog v) s = .next { s with res := l.setWidth 32 })

/-- R130: GFADD is the exclusive or. R131: GFMUL is gf_mul of R126, which R127 derives to be carry-less multiplication
reduced modulo 0x11D, zero operands among them; for either value of LOG1 (log 15). -/
def Obligations.GfaddGfmulCompute : Prop :=
  (∀ a b : Byte, encode (.gfadd a b) = 0x12000000 + (a.setWidth 32 <<< 8) + b.setWidth 32 ∧
    encode (.gfmul a b) = 0x13000000 + (a.setWidth 32 <<< 8) + b.setWidth 32) ∧
  ∀ (s : State) (a b : Byte), s.err = 0 → legalLog1 s.cfg.log1 →
    exec (.gfadd a b) s = .next { s with res := (a ^^^ b).setWidth 32 } ∧
    exec (.gfmul a b) s =
      .next { s with res := BitVec.ofNat 32 (reducedModulo (carrylessProduct a.toNat b.toNat)) }

/-- R127: the laws the source states as testable properties, and those that R127 derives from R121 and R126: GF(256) under these operations is
a commutative ring with unit and without zero divisors; a product with 2 is a doubling reduced by 285; every product
is the carry-less product reduced modulo 0x11D. -/
def Obligations.FieldLaws : Prop :=
  ∀ log1 : Byte, legalLog1 log1 → ∀ x y z : Byte,
    gfMul log1 x y = gfMul log1 y x ∧ gfMul log1 x 1 = x ∧ gfMul log1 x 0 = 0 ∧
    (∀ l, logRom log1 x = some l → expRom l = x) ∧
    gfMul log1 (gfMul log1 x y) z = gfMul log1 x (gfMul log1 y z) ∧
    gfMul log1 x (gfAdd y z) = gfAdd (gfMul log1 x y) (gfMul log1 x z) ∧
    (gfMul log1 x y = 0 ↔ x = 0 ∨ y = 0) ∧
    (gfMul log1 x 2).toNat = (if x.toNat * 2 ≤ 255 then x.toNat * 2 else (x.toNat * 2) ^^^ 285) ∧
    (gfMul log1 x y).toNat = reducedModulo (carrylessProduct x.toNat y.toNat)

/-! ## The Reed-Solomon unit -/

/-- R146, R147: RSGEN n and RSGENL put rs_gen in GEN and its degree in GENDEG; one generator a request; n outside
1..25 is OperandRange. -/
def Obligations.RsgenRsgenlBuildGenerator : Prop :=
  (∀ n : Byte, encode (.rsgen n) = 0x20000000 + n.setWidth 32) ∧ encode .rsgenl = 0x21000000 ∧
  ∀ s : State, s.err = 0 →
    (∀ n : Byte, s.flag .genv = true → exec (.rsgen n) s = .next (raised s 5 (encode (.rsgen n)))) ∧
    (∀ n : Byte, s.flag .genv = false → (n.toNat = 0 ∨ 25 < n.toNat) →
      exec (.rsgen n) s = .next (raised s 6 (encode (.rsgen n)))) ∧
    (∀ n : Byte, s.flag .genv = false → 1 ≤ n.toNat → n.toNat ≤ 25 →
      exec (.rsgen n) s = .next { s with
        gen := some (rsGen s.cfg.log1 n.toNat), gendeg := some (n.setWidth 5), status := s.status ||| 0x0020 }) ∧
    ((s.flag .lvlv = false ∨ s.flag .genv = true) → exec .rsgenl s = .next (raised s 5 (encode .rsgenl))) ∧
    (∀ l, s.flag .lvlv = true → s.flag .genv = false → s.level = some l →
      exec .rsgenl s = .next { s with
        gen := some (rsGen s.cfg.log1 (s.cfg.nec.get l)), gendeg := some (BitVec.ofNat 5 (s.cfg.nec.get l)),
        status := s.status ||| 0x0020 })

/-- R148: RSENC puts rs_encode(DCW, GENDEG) in ECW and GENDEG in ELEN, within the budget of 26 codewords. -/
def Obligations.RsencFillsEcw : Prop :=
  encode .rsenc = 0x22000000 ∧
  ∀ s : State, s.err = 0 →
    ((s.flag .dcwv = false ∨ s.flag .genv = false ∨ s.flag .ecwv = true) →
      exec .rsenc s = .next (raised s 5 (encode .rsenc))) ∧
    (∀ n, s.flag .dcwv = true → s.flag .genv = true → s.flag .ecwv = false → s.gendeg = some n →
      (26 < s.dlen.toNat + n.toNat → exec .rsenc s = .next (raised s 6 (encode .rsenc))) ∧
      (s.dlen.toNat + n.toNat ≤ 26 → s.dcw.length = s.dlen.toNat → s.gen = some (rsGen s.cfg.log1 n.toNat) →
        exec .rsenc s = .next { s with
          ecw := rsEncode s.cfg.log1 s.dcw n.toNat, elen := n, status := s.status ||| 0x0040 }))

/-- R141: rs_gen(n) has n + 1 coefficients, the first of them 1, and the roots EXP[0], ..., EXP[n−1]. -/
def Obligations.GeneratorDegreeAndRoots : Prop :=
  ∀ (log1 : Byte) (n : Nat), legalLog1 log1 → n ≤ 25 →
    (rsGen log1 n).length = n + 1 ∧ (rsGen log1 n).head? = some 1 ∧
    ∀ i, i < n → valueAt log1 (rsGen log1 n) (expRom (BitVec.ofNat 8 i)) = 0

/-- R143: the data codewords followed by the EC codewords are divisible by the generator: they vanish at each of its
roots. -/
def Obligations.CodewordsDivisibleByGenerator : Prop :=
  ∀ (log1 : Byte) (data : List Byte) (n : Nat), legalLog1 log1 → 1 ≤ data.length → 1 ≤ n → data.length + n ≤ 26 →
    (rsEncode log1 data n).length = n ∧
    ∀ i, i < n → valueAt log1 (data ++ rsEncode log1 data n) (expRom (BitVec.ofNat 8 i)) = 0

/-- R144: rs_encode is linear over lists of equal length, and rs_encode of one byte 1 is the generator without its
leading 1. -/
def Obligations.EncodingIsLinear : Prop :=
  ∀ (log1 : Byte) (n : Nat), legalLog1 log1 → 1 ≤ n →
    (∀ a b : List Byte, a.length = b.length → 1 ≤ a.length → a.length + n ≤ 26 →
      rsEncode log1 (List.zipWith gfAdd a b) n =
        List.zipWith gfAdd (rsEncode log1 a n) (rsEncode log1 b n)) ∧
    (n ≤ 25 → rsEncode log1 [1] n = (rsGen log1 n).tail)

/-! ## The bitstream unit -/

/-- R174: BSMODE chooses Alphanumeric iff every character is in CFG.ALNUM, else Byte, which needs code points up to
255. -/
def Obligations.BsmodeChoosesMode : Prop :=
  encode .bsmode = 0x30000000 ∧
  ∀ s : State, s.err = 0 →
    ((s.flag .lvlv = false ∨ s.flag .modev = true ∨ s.flag .raw = true) →
      exec .bsmode s = .next (raised s 5 (encode .bsmode))) ∧
    (s.flag .lvlv = true → s.flag .modev = false → s.flag .raw = false → s.msg.length = s.msglen.toNat →
      ((∀ cp ∈ s.msg, ∃ v, (cp, v) ∈ s.cfg.alnum) →
        exec .bsmode s = .next { s with mode := some .alphanumeric, res := 0, status := s.status ||| 0x0002 }) ∧
      ((∃ cp ∈ s.msg, ∀ v, (cp, v) ∉ s.cfg.alnum) → (∀ cp ∈ s.msg, cp.toNat ≤ 255) →
        exec .bsmode s = .next { s with mode := some .byte, res := 1, status := s.status ||| 0x0002 }) ∧
      ((∃ cp ∈ s.msg, ∀ v, (cp, v) ∉ s.cfg.alnum) → (∃ cp ∈ s.msg, 255 < cp.toNat) →
        exec .bsmode s = .next (raised s 2 (encode .bsmode))))

/-- R175 with R164: BSCHK computes the required bits of the message and compares them with 8·CAP; equal passes. -/
def Obligations.BschkValidatesCapacity : Prop :=
  encode .bschk = 0x31000000 ∧
  ∀ s : State, s.err = 0 →
    ((s.flag .modev = false ∨ s.flag .chkv = true) → exec .bschk s = .next (raised s 5 (encode .bschk))) ∧
    (∀ m l need, s.flag .modev = true → s.flag .chkv = false → s.mode = some m → s.level = some l →
      need = (if m = .alphanumeric then 4 + 9 + 11 * (s.msglen.toNat / 2) + 6 * (s.msglen.toNat % 2)
        else 4 + 8 + 8 * s.msglen.toNat) →
      (8 * s.cfg.cap.get l < need → exec .bschk s = .next (raised s 3 (encode .bschk))) ∧
      (need ≤ 8 * s.cfg.cap.get l → exec .bschk s = .next { s with
        reqbits := some (BitVec.ofNat 16 need), res := BitVec.ofNat 32 need, status := s.status ||| 0x0004 }))

/-- R176: BSASM puts header and payload in BITS and REQBITS in BITLEN. -/
def Obligations.BsasmAssembles : Prop :=
  encode .bsasm = 0x32000000 ∧
  ∀ s : State, s.err = 0 →
    ((s.flag .chkv = false ∨ s.flag .asmv = true) → exec .bsasm s = .next (raised s 5 (encode .bsasm))) ∧
    (∀ m req bs, s.flag .chkv = true → s.flag .asmv = false → s.mode = some m → s.reqbits = some req →
      s.msg.length = s.msglen.toNat → assemble s.cfg m s.msg = some bs →
      exec .bsasm s = .next { s with bits := bs, bitlen := some (req.setWidth 8), status := s.status ||| 0x0008 })

/-- R166 to R169: assembly succeeds on every message its mode can carry; its length is exactly the required bits; it
carries the mode indicator in 4 bits, the number of characters in the mode's count field, and then the characters:
one byte each, or 45·first + second in 11 bits for each pair and 6 bits for an odd last one. -/
def Obligations.AssembledStreamCarriesMessage : Prop :=
  ∀ (c : Config) (msg : List CodePoint), c.wf = true → msg.length ≤ c.msgMax →
    (detectMode c msg = .byte → checkBytes msg = true) →
    ∃ bs, assemble c (detectMode c msg) msg = some bs ∧
      bs.length = requiredBits (detectMode c msg) msg.length ∧
      bitsValue (bs.take 4) = (c.modeInd.get (detectMode c msg)).toNat ∧
      bitsValue ((bs.drop 4).take (if detectMode c msg = .byte then 8 else 9)) = msg.length ∧
      (detectMode c msg = .byte → ∀ i cp, msg[i]? = some cp →
        bitsValue ((bs.drop (12 + 8 * i)).take 8) = cp.toNat) ∧
      (detectMode c msg = .alphanumeric →
        (∀ p a b x y, msg[2 * p]? = some a → msg[2 * p + 1]? = some b → (a, x) ∈ c.alnum → (b, y) ∈ c.alnum →
          bitsValue ((bs.drop (13 + 11 * p)).take 11) = 45 * x + y) ∧
        (msg.length % 2 = 1 → ∀ a x, msg[msg.length - 1]? = some a → (a, x) ∈ c.alnum →
          bitsValue (bs.drop (13 + 11 * (msg.length / 2))) = x))

/-- R177: BSPAD pads BITS to the capacity and packs it into DCW. -/
def Obligations.BspadFillsCapacity : Prop :=
  encode .bspad = 0x33000000 ∧
  ∀ s : State, s.err = 0 →
    ((s.flag .asmv = false ∨ s.flag .padv = true) → exec .bspad s = .next (raised s 5 (encode .bspad))) ∧
    (∀ l n, s.flag .asmv = true → s.flag .padv = false → s.level = some l → s.bitlen = some n →
      s.bits.length = n.toNat →
      exec .bspad s = .next { s with
        bits := padStream (8 * s.cfg.cap.get l) s.bits, bitlen := some (BitVec.ofNat 8 (8 * s.cfg.cap.get l)),
        dcw := packBytes (s.cfg.cap.get l) (padStream (8 * s.cfg.cap.get l) s.bits),
        dlen := BitVec.ofNat 5 (s.cfg.cap.get l), status := s.status ||| 0x1010 })

/-- R170 to R173: the padded stream is exactly as long as the capacity, begins with the bits that were there, goes on
with zeros for the terminator and up to the byte boundary, and then cycles 0xEC and 0x11 from 0xEC; codeword i is the
stream's bits 8i to 8i+7, the first as bit 7. -/
def Obligations.PaddedStreamFillsCapacity : Prop :=
  ∀ (cap : Nat) (s : List Bool), s.length ≤ 8 * cap →
    (padStream (8 * cap) s).length = 8 * cap ∧ (padStream (8 * cap) s).take s.length = s ∧
    (packBytes cap (padStream (8 * cap) s)).length = cap ∧
    (∀ k, s.length ≤ k → k < 8 * cap → k < s.length + 4 ∨ k < 8 * ((min (s.length + 4) (8 * cap) + 7) / 8) →
      (padStream (8 * cap) s)[k]? = some false) ∧
    (∀ j, (min (s.length + 4) (8 * cap) + 7) / 8 + j < cap →
      (packBytes cap (padStream (8 * cap) s))[(min (s.length + 4) (8 * cap) + 7) / 8 + j]? =
        some (if j % 2 = 0 then 0xEC else 0x11)) ∧
    (∀ i k b, i < cap → k < 8 → (packBytes cap (padStream (8 * cap) s))[i]? = some b →
      (padStream (8 * cap) s)[8 * i + k]? = some (b.getLsbD (7 - k)))

/-! ## The matrix unit -/

/-- R197: the counts of function, data, format and drawn cells, and the picture of the grid after FPLACE. -/
def Obligations.GeometryCountsAndPicture : Prop :=
  (List.range 441).countP (fun a => isFunction (a / 21) (a % 21)) = 233 ∧
  (List.range 441).countP (fun a => isFormat (a / 21) (a % 21)) = 30 ∧
  (List.range 441).countP (fun a => (drawnAt (a / 21) (a % 21)).isSome) = 203 ∧
  (List.range 441).countP (fun a => drawnAt (a / 21) (a % 21) == some .dark) = 106 ∧
  (List.range 441).countP (fun a => drawnAt (a / 21) (a % 21) == some .light) = 97 ∧
  patternPicture.map (fun row => row.toList.map pictured) =
    (List.range 21).map (fun r => (List.range 21).map fun c => (drawnAt r c).getD .unset)

/-- R208: FPLACE draws the cells of R191 to R194 and leaves every other cell, the format cells among them, as it
was. That the grid is in canonical form is about the model's own list of cells (log 8). -/
def Obligations.FplaceDrawsPatterns : Prop :=
  encode .fplace = 0x40000000 ∧
  ∀ s : State, s.err = 0 →
    (s.flag .fpv = true → exec .fplace s = .next (raised s 5 (encode .fplace))) ∧
    (s.flag .fpv = false → ∃ t, exec .fplace s = .next t ∧ t = { s with g := t.g, status := s.status ||| 0x0080 } ∧
      Memory.wf t.g = true ∧ ∀ r c, r ≤ 20 → c ≤ 20 →
        (∀ m, drawnAt r c = some m → t.g.read r c = m) ∧
        (drawnAt r c = none → t.g.read r c = s.g.read r c))

/-- R209: ZZINIT puts the cursor at the bottom-right corner, going upward, with no bit consumed; it writes no cell. -/
def Obligations.ZzinitArmsWriter : Prop :=
  encode .zzinit = 0x41000000 ∧
  ∀ s : State, s.err = 0 →
    ((s.flag .fpv = false ∨ s.flag .ecwv = false ∨ s.zst ≠ .idle) →
      exec .zzinit s = .next (raised s 5 (encode .zzinit))) ∧
    (s.flag .fpv = true → s.flag .ecwv = true → s.zst = .idle →
      exec .zzinit s = .next { s with
        zst := .run, cursor := some { zc := 20, zr := 20, zk := false, zup := true, zn := 0 } })

/-- R210 with R203 and R204: one step visits the current cell, which takes the next bit of the combined bit string
(Light once it is exhausted) if it is an Unset data cell, and moves the cursor; no other cell changes. -/
def Obligations.ZzstepMovesOnce : Prop :=
  encode .zzstep = 0x42000000 ∧
  ∀ s : State, s.err = 0 →
    (s.zst ≠ .run → exec .zzstep s = .next (raised s 5 (encode .zzstep))) ∧
    (∀ k, s.zst = .run → s.cursor = some k → k.onPath = true → s.dcw.length = s.dlen.toNat →
      s.ecw.length = s.elen.toNat → s.dlen.toNat + s.elen.toNat ≤ 26 →
      ∃ t u, exec .zzstep s = .next t ∧ t.cursor = some u ∧
        t = { s with g := t.g, zst := t.zst, cursor := t.cursor, status := t.status } ∧
        (∀ r c, r ≤ 20 → c ≤ 20 → (r ≠ k.zr.toNat ∨ c ≠ k.column) → t.g.read r c = s.g.read r c) ∧
        ((isFunction k.zr.toNat k.column = true ∨ s.g.read k.zr.toNat k.column ≠ .unset) →
          t.g.read k.zr.toNat k.column = s.g.read k.zr.toNat k.column ∧ u.zn = k.zn) ∧
        (isFunction k.zr.toNat k.column = false → s.g.read k.zr.toNat k.column = .unset →
          (k.zn.toNat < totBits s →
            t.g.read k.zr.toNat k.column = colourOf (combinedBit (s.dcw ++ s.ecw) k.zn.toNat) ∧
            u.zn = k.zn + 1) ∧
          (totBits s ≤ k.zn.toNat → t.g.read k.zr.toNat k.column = .light ∧ u.zn = k.zn)) ∧
        (k.zk = false → u = { k with zk := true, zn := u.zn } ∧ t.zst = .run) ∧
        (k.zk = true → k.zup = true → 0 < k.zr.toNat →
          u = { k with zk := false, zr := k.zr - 1, zn := u.zn } ∧ t.zst = .run) ∧
        (k.zk = true → k.zup = false → k.zr.toNat < 20 →
          u = { k with zk := false, zr := k.zr + 1, zn := u.zn } ∧ t.zst = .run) ∧
        (k.zk = true → (k.zup = true ∧ k.zr = 0 ∨ k.zup = false ∧ k.zr = 20) →
          (k.zc = 1 → u = { k with zk := false, zup := !k.zup, zn := u.zn } ∧ t.zst = .done) ∧
          (k.zc = 8 → u = { k with zk := false, zup := !k.zup, zc := 5, zn := u.zn } ∧ t.zst = .run) ∧
          (k.zc ≠ 1 → k.zc ≠ 8 →
            u = { k with zk := false, zup := !k.zup, zc := k.zc - 2, zn := u.zn } ∧ t.zst = .run)) ∧
        t.status = (if t.zst = .done then s.status ||| 0x0100 else s.status))

/-- R211: ZZRUN runs the writer to DONE: every Unset data cell still ahead becomes Light or Dark, every other cell
stays; and a ZZSTEP before it changes nothing in the outcome (R210: ZZSTEP and ZZRUN may be mixed). -/
def Obligations.ZzrunRunsToTheEnd : Prop :=
  encode .zzrun = 0x43000000 ∧
  ∀ s : State, s.err = 0 →
    (s.zst ≠ .run → exec .zzrun s = .next (raised s 5 (encode .zzrun))) ∧
    (∀ k, s.zst = .run → s.cursor = some k → k.onPath = true → k.zup = stripUp k.zc.toNat →
      s.dcw.length = s.dlen.toNat → s.ecw.length = s.elen.toNat → s.dlen.toNat + s.elen.toNat ≤ 26 →
      ∃ t u, exec .zzrun s = .next t ∧ t.cursor = some u ∧
        t = { s with g := t.g, zst := .done, cursor := t.cursor, status := s.status ||| 0x0100 } ∧
        u.zc = 1 ∧ u.zr = 20 ∧ u.zk = false ∧ u.zup = true ∧
        (∀ r c, r ≤ 20 → c ≤ 20 →
          (isFunction r c = true ∨ s.g.read r c ≠ .unset ∨ visitStep r c < stepsTaken k →
            t.g.read r c = s.g.read r c) ∧
          (isFunction r c = false → stepsTaken k ≤ visitStep r c → t.g.read r c ≠ .unset)) ∧
        (∀ v, exec .zzstep s = .next v → v.zst = .run → exec .zzrun v = exec .zzrun s))

/-- R205: from the start of the cursor ZST becomes DONE after exactly 420 steps, whatever the data; on a grid whose
data cells are Unset every bit is consumed. -/
def Obligations.WalkTakes420Steps : Prop :=
  ∀ (bits : List Bool) (g : Grid),
    (∀ n, n < 420 → ((zzStep bits)^[n] { g := g, zst := .run, cur := Cursor.start }).zst = .run) ∧
    ((zzStep bits)^[420] { g := g, zst := .run, cur := Cursor.start }).zst = .done ∧
    (bits.length ≤ 208 → (∀ r c, r ≤ 20 → c ≤ 20 → isFunction r c = false → g.read r c = .unset) →
      ((zzStep bits)^[420] { g := g, zst := .run, cur := Cursor.start }).cur =
        { zc := 1, zr := 20, zk := false, zup := true, zn := BitVec.ofNat 8 bits.length })

/-- R207, R212, which the spec derives from the walk: ZZRUN straight after ZZINIT puts bit n of the combined bit string, data before EC, most significant
bit first, into the cell that the printed map gives index n; past the end of the string the cells become Light; no
function cell changes. -/
def Obligations.PlacementFollowsPrintedMap : Prop :=
  ∀ s : State, s.err = 0 → s.zst = .run → s.cursor = some Cursor.start →
    s.dcw.length = s.dlen.toNat → s.ecw.length = s.elen.toNat → s.dlen.toNat + s.elen.toNat ≤ 26 →
    (∀ r c, r ≤ 20 → c ≤ 20 → isFunction r c = false → s.g.read r c = .unset) →
    ∃ t, exec .zzrun s = .next t ∧ t.flag .plv = true ∧ ∀ r c, r ≤ 20 → c ≤ 20 →
      (∀ n, placementIndex r c = some n →
        (n < totBits s → combinedBit (s.dcw ++ s.ecw) n = true → t.g.read r c = .dark) ∧
        (n < totBits s → combinedBit (s.dcw ++ s.ecw) n = false → t.g.read r c = .light) ∧
        (totBits s ≤ n → t.g.read r c = .light)) ∧
      (placementIndex r c = none → t.g.read r c = s.g.read r c)

/-! ## The mask and format units -/

/-- R235 with R232 and R234: MASKAP flips the data cells whose (row, column) satisfies the formula, leaves every other
cell, and toggles the id's bit of MSKPAR. That the grid is in canonical form is about the model's own list of cells (log
8); nothing is said of Unset data cells (log 9). -/
def Obligations.MaskapFlipsDataCells : Prop :=
  (∀ id : BitVec 3, encode (.maskap id) = 0x50000000 + id.setWidth 32) ∧
  ∀ (s : State) (id : BitVec 3), s.err = 0 →
    ((s.flag .plv = false ∨ s.flag .done = true) →
      exec (.maskap id) s = .next (raised s 5 (encode (.maskap id)))) ∧
    (s.flag .plv = true → s.flag .done = false → ∃ t, exec (.maskap id) s = .next t ∧
      t = { s with g := t.g, mskpar := s.mskpar ^^^ (1#8 <<< id.toNat) } ∧ Memory.wf t.g = true ∧
      ∀ r c, r ≤ 20 → c ≤ 20 →
        (isFunction r c = false → maskFormula id r c = true →
          (s.g.read r c = .light → t.g.read r c = .dark) ∧ (s.g.read r c = .dark → t.g.read r c = .light)) ∧
        ((isFunction r c = true ∨ maskFormula id r c = false) → t.g.read r c = s.g.read r c))

/-- R233: on a grid whose data cells are all set (R235 requires PLV) applying one mask twice restores the state, and
masks commute. The canonical form of the first grid (log 8) makes the two states equal as data. -/
def Obligations.MaskIsInvolution : Prop :=
  (∀ (s t : State) (id : BitVec 3), Memory.wf s.g = true → s.err = 0 →
    (∀ r c, r ≤ 20 → c ≤ 20 → isFunction r c = false → s.g.read r c ≠ .unset) →
    exec (.maskap id) s = .next t → t.err = 0 → exec (.maskap id) t = .next s) ∧
  (∀ (i j : BitVec 3) (g : Grid), (∀ r c, r ≤ 20 → c ≤ 20 → isFunction r c = false → g.read r c ≠ .unset) →
    applyMask i (applyMask j g) = applyMask j (applyMask i g))

/-- R265 with R261 and R264: FMTWR writes the 15-bit string of (LEVEL, id), most significant bit first, to both lists
of format cells, and no other cell. -/
def Obligations.FmtwrWritesBothCopies : Prop :=
  (∀ id : BitVec 3, encode (.fmtwr id) = 0x58000000 + id.setWidth 32) ∧
  ∀ (s : State) (id : BitVec 3), s.err = 0 →
    ((s.flag .plv = false ∨ s.flag .lvlv = false ∨ s.flag .done = true) →
      exec (.fmtwr id) s = .next (raised s 5 (encode (.fmtwr id)))) ∧
    (∀ l, s.flag .plv = true → s.flag .lvlv = true → s.flag .done = false → s.level = some l → s.cfg.wf = true →
      ∃ t, exec (.fmtwr id) s = .next t ∧ t = { s with g := t.g, status := s.status ||| 0x0200 } ∧
        (∀ k p, k < 15 → (s.cfg.fmtPosA[k]? = some p ∨ s.cfg.fmtPosB[k]? = some p) →
          t.g.read p.1 p.2 =
            (if ((s.cfg.fmt.get l).get id.toFin).getLsbD (14 - k) then .dark else .light)) ∧
        (∀ r c, r ≤ 20 → c ≤ 20 → isFormat r c = false → t.g.read r c = s.g.read r c))

/-- R246: PENALTY puts the score of the grid in RES and changes nothing else; without placement or format information
it is refused. The score is below 2^32 (R245). -/
def Obligations.PenaltyScoresGrid : Prop :=
  encode .penalty = 0x51000000 ∧
  ∀ s : State, s.err = 0 →
    ((s.flag .plv = false ∨ s.flag .fmtv = false) → exec .penalty s = .next (raised s 5 (encode .penalty))) ∧
    (s.flag .plv = true → s.flag .fmtv = true → s.cfg.wf = true →
      (∀ r c, r ≤ 20 → c ≤ 20 → s.g.read r c ≠ .unset) →
      exec .penalty s = .next { s with res := BitVec.ofNat 32 (penaltyScore s.cfg s.g) } ∧
      penaltyScore s.cfg s.g < 2 ^ 32)

/-- R231: the printed 6 × 6 block of each formula, and the number of data cells on which each holds. -/
def Obligations.MaskFormulasMatchPrintedBlocks : Prop :=
  ([0, 1, 2, 3, 4, 5, 6, 7].map fun id : BitVec 3 =>
    (List.range 6).map fun r => (List.range 6).map fun c => if maskFormula id r c then '1' else '0') =
    printedMaskBlocks.map (fun block => block.map fun row => row.toList) ∧
  ([0, 1, 2, 3, 4, 5, 6, 7].map fun id : BitVec 3 =>
    (List.range 441).countP fun a => !isFunction (a / 21) (a % 21) && maskFormula id (a / 21) (a % 21)) =
    [104, 104, 72, 68, 102, 90, 132, 108]

/-- R236 to R244, each term in another form than the model's, for every N3FN: a run of length L ≥ 5 has L − 4 windows of
five like cells and one start, so N1 is the number of such windows and twice the number of such starts; N2 counts the
400 blocks by address; N3 is 40 times the counts of the lines, a listed line having its listed count (the form of P3 is
the model's, log 13) and every other line the matches of the two printed patterns; N4 is the floor of the exact
ratio. -/
def Obligations.PenaltyTermsByCounting : Prop :=
  ∀ (c : Config) (g : Grid) (count : List GridModule → Nat),
    (∀ cells n, (cells, n) ∈ c.n3fn → count cells = n) →
    (∀ cells, (∀ n, (cells, n) ∉ c.n3fn) → count cells = printedMatches cells) →
    penaltyScore c g =
      ((gridLines g).map fun cells =>
        (List.range 17).countP (fun i => likeWindow cells i) +
        2 * (List.range 17).countP (fun i => likeWindow cells i && (i == 0 || cells[i - 1]? != cells[i]?))).sum +
      3 * (List.range 400).countP (fun a =>
        g.read (a / 20) (a % 20) == g.read (a / 20) (a % 20 + 1) &&
        g.read (a / 20) (a % 20) == g.read (a / 20 + 1) (a % 20) &&
        g.read (a / 20) (a % 20) == g.read (a / 20 + 1) (a % 20 + 1)) +
      40 * ((gridLines g).map count).sum +
      10 * ((100 * ((List.range 441).countP fun a => g.read (a / 21) (a % 21) == .dark : Int) - 22050).natAbs / 2205)

/-- R249: MASKSEL writes the winner to BEST, BESTPEN, MSKPAR and RES and its grid to G, and sets FMTV and DONE; no cell
of the finished symbol is Unset. -/
def Obligations.MaskselFinishesSymbol : Prop :=
  encode .masksel = 0x52000000 ∧
  ∀ s : State, s.err = 0 →
    ((s.flag .plv = false ∨ s.flag .lvlv = false ∨ s.mskpar ≠ 0 ∨ s.flag .done = true) →
      exec .masksel s = .next (raised s 5 (encode .masksel))) ∧
    (∀ l, s.flag .plv = true → s.flag .lvlv = true → s.mskpar = 0 → s.flag .done = false → s.level = some l →
      s.cfg.wf = true → (∀ r c, r ≤ 20 → c ≤ 20 → isFormat r c = true ∨ s.g.read r c ≠ .unset) →
      exec .masksel s = .next { s with
        g := (select s.cfg l s.g).g, best := some (select s.cfg l s.g).best,
        bestpen := some (BitVec.ofNat 32 (select s.cfg l s.g).bestpen),
        mskpar := 1#8 <<< (select s.cfg l s.g).best.toNat, res := (select s.cfg l s.g).best.setWidth 32,
        status := s.status ||| 0x0600 } ∧
      ∀ r c, r ≤ 20 → c ≤ 20 → (select s.cfg l s.g).g.read r c ≠ .unset)

/-- R247, R248, R250: on a grid whose data cells are all set (R249 requires PLV) the selection is the first id of least
score, each trial scored on the grid with its own mask and format as if on a private copy; the final grid is the
winner's trial, so its score is the winning score, and it does not depend on what the format cells held before. -/
def Obligations.SelectionIsFirstMinimum : Prop :=
  ∀ (c : Config) (l : Level) (g : Grid), c.wf = true →
    (∀ r k, r ≤ 20 → k ≤ 20 → isFunction r k = false → g.read r k ≠ .unset) →
    (∀ id : BitVec 3, (select c l g).bestpen ≤ penaltyScore c (writeFormat c l id (applyMask id g))) ∧
    (∀ id : BitVec 3, id.toNat < (select c l g).best.toNat →
      (select c l g).bestpen < penaltyScore c (writeFormat c l id (applyMask id g))) ∧
    (select c l g).bestpen = penaltyScore c (select c l g).g ∧
    (select c l g).g = writeFormat c l (select c l g).best (applyMask (select c l g).best g) ∧
    (∀ g' : Grid, (∀ r k, r ≤ 20 → k ≤ 20 → isFormat r k = false → g'.read r k = g.read r k) →
      select c l g' = select c l g)
end

