-- ==== Sys2Proof/Laws/Codes.lean ====
section
/-! SUPPORT. Small facts about the field tables, the polynomial lists and the bit lists: which entries exist, and how
long each list is. -/

namespace Sys2Proof.Machine

/-! ## The field (R122 to R126) -/

/-- LOG has an entry at every address but 0, whatever LOG1 is (R124). -/
theorem logRom_eq_none_iff (log1 v : Byte) : logRom log1 v = none ↔ v = 0 := by
  have tab : ∀ v : Byte, v ≠ 1 →
      ((logRows.get ⟨v.toNat / 16, by omega⟩).get ⟨v.toNat % 16, by omega⟩ = none ↔ v = 0) := by decide +kernel
  unfold logRom; split
  · subst v; simp
  · exact tab v ‹_›

theorem logRom_zero (log1 : Byte) : logRom log1 0 = none := (logRom_eq_none_iff _ _).mpr rfl

theorem logRom_one (log1 : Byte) : logRom log1 1 = some log1 := rfl

/-- A product with 0 is 0 (R126). -/
@[simp] theorem gfMul_zero_left (log1 y : Byte) : gfMul log1 0 y = 0 := by
  rw [gfMul, logRom_zero]

@[simp] theorem gfMul_zero_right (log1 x : Byte) : gfMul log1 x 0 = 0 := by
  rw [gfMul, logRom_zero]; cases logRom log1 x <;> rfl

/-- A product of elements with logarithms is the antilogarithm of their sum (R126). -/
theorem gfMul_of_logs {log1 x y a b : Byte} (hx : logRom log1 x = some a) (hy : logRom log1 y = some b) :
    gfMul log1 x y = expRom (BitVec.ofNat 8 ((a.toNat + b.toNat) % 255)) := by simp [gfMul, hx, hy]

@[simp] theorem gfAdd_self (a : Byte) : gfAdd a a = 0 := BitVec.xor_self

@[simp] theorem gfAdd_zero (a : Byte) : gfAdd a 0 = a := BitVec.xor_zero

@[simp] theorem zero_gfAdd (a : Byte) : gfAdd 0 a = a := BitVec.zero_xor

theorem gfAdd_comm (a b : Byte) : gfAdd a b = gfAdd b a := BitVec.xor_comm a b

theorem gfAdd_assoc (a b c : Byte) : gfAdd (gfAdd a b) c = gfAdd a (gfAdd b c) := BitVec.xor_assoc a b c

/-! ## Lengths of polynomials (R141, R143) -/

@[simp] theorem mulByRoot_length (log1 root : Byte) (g : List Byte) :
    (mulByRoot log1 root g).length = g.length + 1 := by simp [mulByRoot]

/-- A generator of degree n has n + 1 coefficients (R141). -/
@[simp] theorem rsGen_length (log1 : Byte) (n : Nat) : (rsGen log1 n).length = n + 1 := by
  induction n with
  | zero => rfl
  | succ n ih => simp [rsGen, ih]

@[simp] theorem xorInto_length (buf v : List Byte) : (xorInto buf v).length = buf.length := by
  induction buf generalizing v with
  | nil => simp [xorInto]
  | cons b buf ih => cases v <;> simp [xorInto, ih]

/-- The division removes one coefficient a round (R143). -/
@[simp] theorem rsDivide_length (log1 : Byte) (g : List Byte) (k : Nat) (buf : List Byte) :
    (rsDivide log1 g k buf).length = buf.length - k := by
  induction k generalizing buf with
  | zero => rfl
  | succ k ih =>
    cases buf with
    | nil => simp [rsDivide]
    | cons c buf => simp only [rsDivide]; rw [ih]; split <;> simp

/-- rs_encode gives as many codewords as it is asked for (R143). -/
@[simp] theorem rsEncodeWith_length (log1 : Byte) (g data : List Byte) (n : Nat) :
    (rsEncodeWith log1 g data n).length = n := by simp [rsEncodeWith]

/-! ## Lengths of bit lists (R13, R164 to R171) -/

@[simp] theorem bitsN_length (n v : Nat) : (bitsN n v).length = n := by
  induction n with
  | zero => rfl
  | succ n ih => simp [bitsN, ih]

@[simp] theorem headerBits_length (c : Config) (m : Mode) (n : Nat) :
    (headerBits c m n).length = MODEBITS + CNTBITS m := by simp [headerBits]

@[simp] theorem payloadByte_length (msg : List CodePoint) : (payloadByte msg).length = BYTEBITS * msg.length := by
  induction msg with
  | nil => rfl
  | cons cp msg ih => simp only [payloadByte, List.flatMap_cons, List.length_append] at *; rw [ih]; simp; ring

@[simp] theorem codewordBits_length (cw : List Byte) : (codewordBits cw).length = 8 * cw.length := by
  induction cw with
  | nil => rfl
  | cons b cw ih => simp only [codewordBits, List.flatMap_cons, List.length_append] at *; rw [ih]; simp; ring

@[simp] theorem addTerminator_length (capbits : Nat) (s : List Bool) :
    (addTerminator capbits s).length = s.length + min TERMMAX (capbits - s.length) := by simp [addTerminator]

@[simp] theorem padBytes_length (k : Nat) (first : Bool) : (padBytes k first).length = 8 * k := by
  induction k generalizing first with
  | zero => rfl
  | succ k ih => simp [padBytes, ih]; ring

@[simp] theorem packBytes_length (cap : Nat) (s : List Bool) : (packBytes cap s).length = cap := by
  simp [packBytes]

/-- Bit k of an n-bit sequence, counted from the front, is bit n − 1 − k of the value (R13). -/
theorem bitsN_getElem? (n v k : Nat) (h : k < n) : (bitsN n v)[k]? = some (v.testBit (n - 1 - k)) := by
  induction n generalizing k with
  | zero => omega
  | succ n ih =>
    cases k with
    | zero => simp [bitsN]
    | succ k =>
      have : n + 1 - 1 - (k + 1) = n - 1 - k := by omega
      rw [bitsN, List.getElem?_cons_succ, ih k (by omega), this]

end Sys2Proof.Machine
end

