-- ==== Sys2Proof/Laws/State.lean ====
section
/-! SUPPORT. One lemma per field of State for each named update (reading a field after an update), and the flags of
STATUS after each of them, so that no proof has to unfold an update. -/

namespace Sys2Proof.Machine

/-! ## Setting a flag -/

@[simp] theorem State.setFlag_inbox (s : State) (f : Flag) : (s.setFlag f).inbox = s.inbox := rfl
@[simp] theorem State.setFlag_cfg (s : State) (f : Flag) : (s.setFlag f).cfg = s.cfg := rfl
@[simp] theorem State.setFlag_res (s : State) (f : Flag) : (s.setFlag f).res = s.res := rfl
@[simp] theorem State.setFlag_status (s : State) (f : Flag) : (s.setFlag f).status = statusWith s.status f := rfl
@[simp] theorem State.setFlag_err (s : State) (f : Flag) : (s.setFlag f).err = s.err := rfl
@[simp] theorem State.setFlag_errcmd (s : State) (f : Flag) : (s.setFlag f).errcmd = s.errcmd := rfl
@[simp] theorem State.setFlag_level (s : State) (f : Flag) : (s.setFlag f).level = s.level := rfl
@[simp] theorem State.setFlag_mode (s : State) (f : Flag) : (s.setFlag f).mode = s.mode := rfl
@[simp] theorem State.setFlag_msglen (s : State) (f : Flag) : (s.setFlag f).msglen = s.msglen := rfl
@[simp] theorem State.setFlag_reqbits (s : State) (f : Flag) : (s.setFlag f).reqbits = s.reqbits := rfl
@[simp] theorem State.setFlag_bitlen (s : State) (f : Flag) : (s.setFlag f).bitlen = s.bitlen := rfl
@[simp] theorem State.setFlag_dlen (s : State) (f : Flag) : (s.setFlag f).dlen = s.dlen := rfl
@[simp] theorem State.setFlag_elen (s : State) (f : Flag) : (s.setFlag f).elen = s.elen := rfl
@[simp] theorem State.setFlag_gendeg (s : State) (f : Flag) : (s.setFlag f).gendeg = s.gendeg := rfl
@[simp] theorem State.setFlag_msg (s : State) (f : Flag) : (s.setFlag f).msg = s.msg := rfl
@[simp] theorem State.setFlag_bits (s : State) (f : Flag) : (s.setFlag f).bits = s.bits := rfl
@[simp] theorem State.setFlag_dcw (s : State) (f : Flag) : (s.setFlag f).dcw = s.dcw := rfl
@[simp] theorem State.setFlag_ecw (s : State) (f : Flag) : (s.setFlag f).ecw = s.ecw := rfl
@[simp] theorem State.setFlag_gen (s : State) (f : Flag) : (s.setFlag f).gen = s.gen := rfl
@[simp] theorem State.setFlag_g (s : State) (f : Flag) : (s.setFlag f).g = s.g := rfl
@[simp] theorem State.setFlag_zst (s : State) (f : Flag) : (s.setFlag f).zst = s.zst := rfl
@[simp] theorem State.setFlag_cursor (s : State) (f : Flag) : (s.setFlag f).cursor = s.cursor := rfl
@[simp] theorem State.setFlag_mskpar (s : State) (f : Flag) : (s.setFlag f).mskpar = s.mskpar := rfl
@[simp] theorem State.setFlag_best (s : State) (f : Flag) : (s.setFlag f).best = s.best := rfl
@[simp] theorem State.setFlag_bestpen (s : State) (f : Flag) : (s.setFlag f).bestpen = s.bestpen := rfl

/-! ## Writing RES -/

@[simp] theorem State.setRes_inbox {n : Nat} (s : State) (v : BitVec n) : (s.setRes v).inbox = s.inbox := rfl
@[simp] theorem State.setRes_cfg {n : Nat} (s : State) (v : BitVec n) : (s.setRes v).cfg = s.cfg := rfl
@[simp] theorem State.setRes_res {n : Nat} (s : State) (v : BitVec n) : (s.setRes v).res = v.setWidth 32 := rfl
@[simp] theorem State.setRes_status {n : Nat} (s : State) (v : BitVec n) : (s.setRes v).status = s.status := rfl
@[simp] theorem State.setRes_err {n : Nat} (s : State) (v : BitVec n) : (s.setRes v).err = s.err := rfl
@[simp] theorem State.setRes_errcmd {n : Nat} (s : State) (v : BitVec n) : (s.setRes v).errcmd = s.errcmd := rfl
@[simp] theorem State.setRes_level {n : Nat} (s : State) (v : BitVec n) : (s.setRes v).level = s.level := rfl
@[simp] theorem State.setRes_mode {n : Nat} (s : State) (v : BitVec n) : (s.setRes v).mode = s.mode := rfl
@[simp] theorem State.setRes_msglen {n : Nat} (s : State) (v : BitVec n) : (s.setRes v).msglen = s.msglen := rfl
@[simp] theorem State.setRes_reqbits {n : Nat} (s : State) (v : BitVec n) : (s.setRes v).reqbits = s.reqbits := rfl
@[simp] theorem State.setRes_bitlen {n : Nat} (s : State) (v : BitVec n) : (s.setRes v).bitlen = s.bitlen := rfl
@[simp] theorem State.setRes_dlen {n : Nat} (s : State) (v : BitVec n) : (s.setRes v).dlen = s.dlen := rfl
@[simp] theorem State.setRes_elen {n : Nat} (s : State) (v : BitVec n) : (s.setRes v).elen = s.elen := rfl
@[simp] theorem State.setRes_gendeg {n : Nat} (s : State) (v : BitVec n) : (s.setRes v).gendeg = s.gendeg := rfl
@[simp] theorem State.setRes_msg {n : Nat} (s : State) (v : BitVec n) : (s.setRes v).msg = s.msg := rfl
@[simp] theorem State.setRes_bits {n : Nat} (s : State) (v : BitVec n) : (s.setRes v).bits = s.bits := rfl
@[simp] theorem State.setRes_dcw {n : Nat} (s : State) (v : BitVec n) : (s.setRes v).dcw = s.dcw := rfl
@[simp] theorem State.setRes_ecw {n : Nat} (s : State) (v : BitVec n) : (s.setRes v).ecw = s.ecw := rfl
@[simp] theorem State.setRes_gen {n : Nat} (s : State) (v : BitVec n) : (s.setRes v).gen = s.gen := rfl
@[simp] theorem State.setRes_g {n : Nat} (s : State) (v : BitVec n) : (s.setRes v).g = s.g := rfl
@[simp] theorem State.setRes_zst {n : Nat} (s : State) (v : BitVec n) : (s.setRes v).zst = s.zst := rfl
@[simp] theorem State.setRes_cursor {n : Nat} (s : State) (v : BitVec n) : (s.setRes v).cursor = s.cursor := rfl
@[simp] theorem State.setRes_mskpar {n : Nat} (s : State) (v : BitVec n) : (s.setRes v).mskpar = s.mskpar := rfl
@[simp] theorem State.setRes_best {n : Nat} (s : State) (v : BitVec n) : (s.setRes v).best = s.best := rfl
@[simp] theorem State.setRes_bestpen {n : Nat} (s : State) (v : BitVec n) : (s.setRes v).bestpen = s.bestpen := rfl

/-! ## Raising an error -/

@[simp] theorem State.raise_inbox (s : State) (e : ErrorKind) (w : Word) : (s.raise e w).inbox = s.inbox := rfl
@[simp] theorem State.raise_cfg (s : State) (e : ErrorKind) (w : Word) : (s.raise e w).cfg = s.cfg := rfl
@[simp] theorem State.raise_res (s : State) (e : ErrorKind) (w : Word) : (s.raise e w).res = s.res := rfl
@[simp] theorem State.raise_status (s : State) (e : ErrorKind) (w : Word) : (s.raise e w).status = statusWith s.status .fault := rfl
@[simp] theorem State.raise_err (s : State) (e : ErrorKind) (w : Word) : (s.raise e w).err = e.code := rfl
@[simp] theorem State.raise_errcmd (s : State) (e : ErrorKind) (w : Word) : (s.raise e w).errcmd = w := rfl
@[simp] theorem State.raise_level (s : State) (e : ErrorKind) (w : Word) : (s.raise e w).level = s.level := rfl
@[simp] theorem State.raise_mode (s : State) (e : ErrorKind) (w : Word) : (s.raise e w).mode = s.mode := rfl
@[simp] theorem State.raise_msglen (s : State) (e : ErrorKind) (w : Word) : (s.raise e w).msglen = s.msglen := rfl
@[simp] theorem State.raise_reqbits (s : State) (e : ErrorKind) (w : Word) : (s.raise e w).reqbits = s.reqbits := rfl
@[simp] theorem State.raise_bitlen (s : State) (e : ErrorKind) (w : Word) : (s.raise e w).bitlen = s.bitlen := rfl
@[simp] theorem State.raise_dlen (s : State) (e : ErrorKind) (w : Word) : (s.raise e w).dlen = s.dlen := rfl
@[simp] theorem State.raise_elen (s : State) (e : ErrorKind) (w : Word) : (s.raise e w).elen = s.elen := rfl
@[simp] theorem State.raise_gendeg (s : State) (e : ErrorKind) (w : Word) : (s.raise e w).gendeg = s.gendeg := rfl
@[simp] theorem State.raise_msg (s : State) (e : ErrorKind) (w : Word) : (s.raise e w).msg = s.msg := rfl
@[simp] theorem State.raise_bits (s : State) (e : ErrorKind) (w : Word) : (s.raise e w).bits = s.bits := rfl
@[simp] theorem State.raise_dcw (s : State) (e : ErrorKind) (w : Word) : (s.raise e w).dcw = s.dcw := rfl
@[simp] theorem State.raise_ecw (s : State) (e : ErrorKind) (w : Word) : (s.raise e w).ecw = s.ecw := rfl
@[simp] theorem State.raise_gen (s : State) (e : ErrorKind) (w : Word) : (s.raise e w).gen = s.gen := rfl
@[simp] theorem State.raise_g (s : State) (e : ErrorKind) (w : Word) : (s.raise e w).g = s.g := rfl
@[simp] theorem State.raise_zst (s : State) (e : ErrorKind) (w : Word) : (s.raise e w).zst = s.zst := rfl
@[simp] theorem State.raise_cursor (s : State) (e : ErrorKind) (w : Word) : (s.raise e w).cursor = s.cursor := rfl
@[simp] theorem State.raise_mskpar (s : State) (e : ErrorKind) (w : Word) : (s.raise e w).mskpar = s.mskpar := rfl
@[simp] theorem State.raise_best (s : State) (e : ErrorKind) (w : Word) : (s.raise e w).best = s.best := rfl
@[simp] theorem State.raise_bestpen (s : State) (e : ErrorKind) (w : Word) : (s.raise e w).bestpen = s.bestpen := rfl

/-! ## The way back to reset -/

@[simp] theorem State.restart_inbox (s : State) : (s.restart).inbox = s.inbox := rfl
@[simp] theorem State.restart_cfg (s : State) : (s.restart).cfg = s.cfg := rfl
@[simp] theorem State.restart_res (s : State) : (s.restart).res = 0 := rfl
@[simp] theorem State.restart_status (s : State) : (s.restart).status = 0 := rfl
@[simp] theorem State.restart_err (s : State) : (s.restart).err = 0 := rfl
@[simp] theorem State.restart_errcmd (s : State) : (s.restart).errcmd = 0 := rfl
@[simp] theorem State.restart_level (s : State) : (s.restart).level = none := rfl
@[simp] theorem State.restart_mode (s : State) : (s.restart).mode = none := rfl
@[simp] theorem State.restart_msglen (s : State) : (s.restart).msglen = 0 := rfl
@[simp] theorem State.restart_reqbits (s : State) : (s.restart).reqbits = none := rfl
@[simp] theorem State.restart_bitlen (s : State) : (s.restart).bitlen = none := rfl
@[simp] theorem State.restart_dlen (s : State) : (s.restart).dlen = 0 := rfl
@[simp] theorem State.restart_elen (s : State) : (s.restart).elen = 0 := rfl
@[simp] theorem State.restart_gendeg (s : State) : (s.restart).gendeg = none := rfl
@[simp] theorem State.restart_msg (s : State) : (s.restart).msg = [] := rfl
@[simp] theorem State.restart_bits (s : State) : (s.restart).bits = [] := rfl
@[simp] theorem State.restart_dcw (s : State) : (s.restart).dcw = [] := rfl
@[simp] theorem State.restart_ecw (s : State) : (s.restart).ecw = [] := rfl
@[simp] theorem State.restart_gen (s : State) : (s.restart).gen = none := rfl
@[simp] theorem State.restart_g (s : State) : (s.restart).g = [] := rfl
@[simp] theorem State.restart_zst (s : State) : (s.restart).zst = .idle := rfl
@[simp] theorem State.restart_cursor (s : State) : (s.restart).cursor = none := rfl
@[simp] theorem State.restart_mskpar (s : State) : (s.restart).mskpar = 0 := rfl
@[simp] theorem State.restart_best (s : State) : (s.restart).best = none := rfl
@[simp] theorem State.restart_bestpen (s : State) : (s.restart).bestpen = none := rfl

/-! ## Storing a generator polynomial -/

@[simp] theorem State.withGenerator_inbox (s : State) (n : Nat) : (s.withGenerator n).inbox = s.inbox := rfl
@[simp] theorem State.withGenerator_cfg (s : State) (n : Nat) : (s.withGenerator n).cfg = s.cfg := rfl
@[simp] theorem State.withGenerator_res (s : State) (n : Nat) : (s.withGenerator n).res = s.res := rfl
@[simp] theorem State.withGenerator_status (s : State) (n : Nat) : (s.withGenerator n).status = statusWith s.status .genv := rfl
@[simp] theorem State.withGenerator_err (s : State) (n : Nat) : (s.withGenerator n).err = s.err := rfl
@[simp] theorem State.withGenerator_errcmd (s : State) (n : Nat) : (s.withGenerator n).errcmd = s.errcmd := rfl
@[simp] theorem State.withGenerator_level (s : State) (n : Nat) : (s.withGenerator n).level = s.level := rfl
@[simp] theorem State.withGenerator_mode (s : State) (n : Nat) : (s.withGenerator n).mode = s.mode := rfl
@[simp] theorem State.withGenerator_msglen (s : State) (n : Nat) : (s.withGenerator n).msglen = s.msglen := rfl
@[simp] theorem State.withGenerator_reqbits (s : State) (n : Nat) : (s.withGenerator n).reqbits = s.reqbits := rfl
@[simp] theorem State.withGenerator_bitlen (s : State) (n : Nat) : (s.withGenerator n).bitlen = s.bitlen := rfl
@[simp] theorem State.withGenerator_dlen (s : State) (n : Nat) : (s.withGenerator n).dlen = s.dlen := rfl
@[simp] theorem State.withGenerator_elen (s : State) (n : Nat) : (s.withGenerator n).elen = s.elen := rfl
@[simp] theorem State.withGenerator_gendeg (s : State) (n : Nat) : (s.withGenerator n).gendeg = some (BitVec.ofNat 5 n) := rfl
@[simp] theorem State.withGenerator_msg (s : State) (n : Nat) : (s.withGenerator n).msg = s.msg := rfl
@[simp] theorem State.withGenerator_bits (s : State) (n : Nat) : (s.withGenerator n).bits = s.bits := rfl
@[simp] theorem State.withGenerator_dcw (s : State) (n : Nat) : (s.withGenerator n).dcw = s.dcw := rfl
@[simp] theorem State.withGenerator_ecw (s : State) (n : Nat) : (s.withGenerator n).ecw = s.ecw := rfl
@[simp] theorem State.withGenerator_gen (s : State) (n : Nat) : (s.withGenerator n).gen = some (rsGen s.cfg.log1 n) := rfl
@[simp] theorem State.withGenerator_g (s : State) (n : Nat) : (s.withGenerator n).g = s.g := rfl
@[simp] theorem State.withGenerator_zst (s : State) (n : Nat) : (s.withGenerator n).zst = s.zst := rfl
@[simp] theorem State.withGenerator_cursor (s : State) (n : Nat) : (s.withGenerator n).cursor = s.cursor := rfl
@[simp] theorem State.withGenerator_mskpar (s : State) (n : Nat) : (s.withGenerator n).mskpar = s.mskpar := rfl
@[simp] theorem State.withGenerator_best (s : State) (n : Nat) : (s.withGenerator n).best = s.best := rfl
@[simp] theorem State.withGenerator_bestpen (s : State) (n : Nat) : (s.withGenerator n).bestpen = s.bestpen := rfl

/-! ## The next input -/

@[simp] theorem State.withFetchWord_inbox (s : State) (nbits w : Nat) : (s.withFetchWord nbits w).inbox = .command (BitVec.ofNat 32 (w % 2 ^ nbits)) :: s.inbox := rfl
@[simp] theorem State.withFetchWord_cfg (s : State) (nbits w : Nat) : (s.withFetchWord nbits w).cfg = s.cfg := rfl
@[simp] theorem State.withFetchWord_res (s : State) (nbits w : Nat) : (s.withFetchWord nbits w).res = s.res := rfl
@[simp] theorem State.withFetchWord_status (s : State) (nbits w : Nat) : (s.withFetchWord nbits w).status = s.status := rfl
@[simp] theorem State.withFetchWord_err (s : State) (nbits w : Nat) : (s.withFetchWord nbits w).err = s.err := rfl
@[simp] theorem State.withFetchWord_errcmd (s : State) (nbits w : Nat) : (s.withFetchWord nbits w).errcmd = s.errcmd := rfl
@[simp] theorem State.withFetchWord_level (s : State) (nbits w : Nat) : (s.withFetchWord nbits w).level = s.level := rfl
@[simp] theorem State.withFetchWord_mode (s : State) (nbits w : Nat) : (s.withFetchWord nbits w).mode = s.mode := rfl
@[simp] theorem State.withFetchWord_msglen (s : State) (nbits w : Nat) : (s.withFetchWord nbits w).msglen = s.msglen := rfl
@[simp] theorem State.withFetchWord_reqbits (s : State) (nbits w : Nat) : (s.withFetchWord nbits w).reqbits = s.reqbits := rfl
@[simp] theorem State.withFetchWord_bitlen (s : State) (nbits w : Nat) : (s.withFetchWord nbits w).bitlen = s.bitlen := rfl
@[simp] theorem State.withFetchWord_dlen (s : State) (nbits w : Nat) : (s.withFetchWord nbits w).dlen = s.dlen := rfl
@[simp] theorem State.withFetchWord_elen (s : State) (nbits w : Nat) : (s.withFetchWord nbits w).elen = s.elen := rfl
@[simp] theorem State.withFetchWord_gendeg (s : State) (nbits w : Nat) : (s.withFetchWord nbits w).gendeg = s.gendeg := rfl
@[simp] theorem State.withFetchWord_msg (s : State) (nbits w : Nat) : (s.withFetchWord nbits w).msg = s.msg := rfl
@[simp] theorem State.withFetchWord_bits (s : State) (nbits w : Nat) : (s.withFetchWord nbits w).bits = s.bits := rfl
@[simp] theorem State.withFetchWord_dcw (s : State) (nbits w : Nat) : (s.withFetchWord nbits w).dcw = s.dcw := rfl
@[simp] theorem State.withFetchWord_ecw (s : State) (nbits w : Nat) : (s.withFetchWord nbits w).ecw = s.ecw := rfl
@[simp] theorem State.withFetchWord_gen (s : State) (nbits w : Nat) : (s.withFetchWord nbits w).gen = s.gen := rfl
@[simp] theorem State.withFetchWord_g (s : State) (nbits w : Nat) : (s.withFetchWord nbits w).g = s.g := rfl
@[simp] theorem State.withFetchWord_zst (s : State) (nbits w : Nat) : (s.withFetchWord nbits w).zst = s.zst := rfl
@[simp] theorem State.withFetchWord_cursor (s : State) (nbits w : Nat) : (s.withFetchWord nbits w).cursor = s.cursor := rfl
@[simp] theorem State.withFetchWord_mskpar (s : State) (nbits w : Nat) : (s.withFetchWord nbits w).mskpar = s.mskpar := rfl
@[simp] theorem State.withFetchWord_best (s : State) (nbits w : Nat) : (s.withFetchWord nbits w).best = s.best := rfl
@[simp] theorem State.withFetchWord_bestpen (s : State) (nbits w : Nat) : (s.withFetchWord nbits w).bestpen = s.bestpen := rfl

/-! ## Moving the writer -/

@[simp] theorem State.withWalk_inbox (s : State) (x : Walk) : (s.withWalk x).inbox = s.inbox := by
  unfold State.withWalk; split <;> rfl
@[simp] theorem State.withWalk_cfg (s : State) (x : Walk) : (s.withWalk x).cfg = s.cfg := by
  unfold State.withWalk; split <;> rfl
@[simp] theorem State.withWalk_res (s : State) (x : Walk) : (s.withWalk x).res = s.res := by
  unfold State.withWalk; split <;> rfl
@[simp] theorem State.withWalk_status (s : State) (x : Walk) : (s.withWalk x).status = if x.zst = .done then statusWith s.status .plv else s.status := by
  unfold State.withWalk; split <;> rfl
@[simp] theorem State.withWalk_err (s : State) (x : Walk) : (s.withWalk x).err = s.err := by
  unfold State.withWalk; split <;> rfl
@[simp] theorem State.withWalk_errcmd (s : State) (x : Walk) : (s.withWalk x).errcmd = s.errcmd := by
  unfold State.withWalk; split <;> rfl
@[simp] theorem State.withWalk_level (s : State) (x : Walk) : (s.withWalk x).level = s.level := by
  unfold State.withWalk; split <;> rfl
@[simp] theorem State.withWalk_mode (s : State) (x : Walk) : (s.withWalk x).mode = s.mode := by
  unfold State.withWalk; split <;> rfl
@[simp] theorem State.withWalk_msglen (s : State) (x : Walk) : (s.withWalk x).msglen = s.msglen := by
  unfold State.withWalk; split <;> rfl
@[simp] theorem State.withWalk_reqbits (s : State) (x : Walk) : (s.withWalk x).reqbits = s.reqbits := by
  unfold State.withWalk; split <;> rfl
@[simp] theorem State.withWalk_bitlen (s : State) (x : Walk) : (s.withWalk x).bitlen = s.bitlen := by
  unfold State.withWalk; split <;> rfl
@[simp] theorem State.withWalk_dlen (s : State) (x : Walk) : (s.withWalk x).dlen = s.dlen := by
  unfold State.withWalk; split <;> rfl
@[simp] theorem State.withWalk_elen (s : State) (x : Walk) : (s.withWalk x).elen = s.elen := by
  unfold State.withWalk; split <;> rfl
@[simp] theorem State.withWalk_gendeg (s : State) (x : Walk) : (s.withWalk x).gendeg = s.gendeg := by
  unfold State.withWalk; split <;> rfl
@[simp] theorem State.withWalk_msg (s : State) (x : Walk) : (s.withWalk x).msg = s.msg := by
  unfold State.withWalk; split <;> rfl
@[simp] theorem State.withWalk_bits (s : State) (x : Walk) : (s.withWalk x).bits = s.bits := by
  unfold State.withWalk; split <;> rfl
@[simp] theorem State.withWalk_dcw (s : State) (x : Walk) : (s.withWalk x).dcw = s.dcw := by
  unfold State.withWalk; split <;> rfl
@[simp] theorem State.withWalk_ecw (s : State) (x : Walk) : (s.withWalk x).ecw = s.ecw := by
  unfold State.withWalk; split <;> rfl
@[simp] theorem State.withWalk_gen (s : State) (x : Walk) : (s.withWalk x).gen = s.gen := by
  unfold State.withWalk; split <;> rfl
@[simp] theorem State.withWalk_g (s : State) (x : Walk) : (s.withWalk x).g = x.g := by
  unfold State.withWalk; split <;> rfl
@[simp] theorem State.withWalk_zst (s : State) (x : Walk) : (s.withWalk x).zst = x.zst := by
  unfold State.withWalk; split <;> rfl
@[simp] theorem State.withWalk_cursor (s : State) (x : Walk) : (s.withWalk x).cursor = some x.cur := by
  unfold State.withWalk; split <;> rfl
@[simp] theorem State.withWalk_mskpar (s : State) (x : Walk) : (s.withWalk x).mskpar = s.mskpar := by
  unfold State.withWalk; split <;> rfl
@[simp] theorem State.withWalk_best (s : State) (x : Walk) : (s.withWalk x).best = s.best := by
  unfold State.withWalk; split <;> rfl
@[simp] theorem State.withWalk_bestpen (s : State) (x : Walk) : (s.withWalk x).bestpen = s.bestpen := by
  unfold State.withWalk; split <;> rfl

/-! ## The flags after an update -/

/-- Two flags share a bit only if they are the same flag (R29). -/
theorem Flag.bit_injective : Function.Injective Flag.bit := by
  intro f g h; cases f <;> cases g <;> first | rfl | (exact absurd h (by decide))

theorem Flag.bit_lt (f : Flag) : f.bit < 16 := by cases f <;> decide

/-- A bit of STATUS after a flag is set: the flag's own bit is 1, every other as before. -/
theorem statusWith_getLsbD (st : BitVec 16) (f : Flag) (b : Nat) :
    (statusWith st f).getLsbD b = (st.getLsbD b || (b == f.bit)) := by
  have one : (1#16 <<< f.bit).getLsbD b = (b == f.bit) := by
    have hf := f.bit_lt
    rw [BitVec.getLsbD_shiftLeft, BitVec.getLsbD_one, Bool.eq_iff_iff]
    simp; omega
  simp [statusWith, one]

/-- A flag is a bit of STATUS: two states with the same STATUS have the same flags. -/
theorem State.flag_congr {s t : State} (h : s.status = t.status) (f : Flag) : s.flag f = t.flag f := by
  simp [State.flag, h]

/-- A flag after another is set. -/
@[simp] theorem State.setFlag_flag (s : State) (f g : Flag) : (s.setFlag f).flag g = (s.flag g || decide (g = f)) := by
  have : (g.bit == f.bit) = decide (g = f) := by
    by_cases h : g = f
    · simp [h]
    · simp [h, Flag.bit_injective.ne h]
  simp [State.flag, statusWith_getLsbD, this]

@[simp] theorem State.setRes_flag {n : Nat} (s : State) (v : BitVec n) (f : Flag) :
    (s.setRes v).flag f = s.flag f := rfl

@[simp] theorem State.raise_flag (s : State) (e : ErrorKind) (w : Word) (f : Flag) :
    (s.raise e w).flag f = (s.flag f || decide (f = .fault)) := State.setFlag_flag s .fault f

@[simp] theorem State.restart_flag (s : State) (f : Flag) : s.restart.flag f = false := by
  simp [State.flag]

@[simp] theorem State.withGenerator_flag (s : State) (n : Nat) (f : Flag) :
    (s.withGenerator n).flag f = (s.flag f || decide (f = .genv)) := State.setFlag_flag _ .genv f

@[simp] theorem State.withWalk_flag (s : State) (x : Walk) (f : Flag) :
    (s.withWalk x).flag f = (s.flag f || (decide (x.zst = .done) && decide (f = .plv))) := by
  unfold State.withWalk; split
  · rename_i h; rw [State.setFlag_flag]; simp [h]; rfl
  · rename_i h
    simp only [h, decide_false, Bool.false_and, Bool.or_false]; rfl

/-- The state after an error is the model's raise (R275). -/
theorem State.raise_eq_raised (s : State) (e : ErrorKind) (w : Word) :
    s.raise e w = Safety.raised s e.code w := rfl

/-- The masks of the flags that the commands set, as the statements write them (R29). -/
theorem statusWith_masks (st : BitVec 16) :
    statusWith st .lvlv = st ||| 0x0001 ∧ statusWith st .modev = st ||| 0x0002 ∧
    statusWith st .chkv = st ||| 0x0004 ∧ statusWith st .asmv = st ||| 0x0008 ∧
    statusWith st .genv = st ||| 0x0020 ∧ statusWith st .ecwv = st ||| 0x0040 ∧
    statusWith st .fpv = st ||| 0x0080 ∧ statusWith st .plv = st ||| 0x0100 ∧
    statusWith st .fmtv = st ||| 0x0200 ∧ statusWith st .fault = st ||| 0x8000 :=
  ⟨rfl, rfl, rfl, rfl, rfl, rfl, rfl, rfl, rfl, rfl⟩

end Sys2Proof.Machine
end

