-- ==== Sys2Proof/Laws/Ops.lean ====
section
/-! SUPPORT. The spec lemmas of the shared operations of Machine/Ops.lean: what each answers, once for all callers; and
the inversion of a command's head, which every proof over commands starts from. -/

namespace Sys2Proof.Machine

open Host

/-! ## The execution rule (R100, R277, R278) -/

/-- The gate is open while ERR = 0. -/
theorem gate_open {s : State} (h : s.err = 0) (k : Result) : gate s k = k := if_pos h

/-- The gate is shut while ERR ≠ 0: nothing changes. -/
theorem gate_shut {s : State} (h : s.err ≠ 0) (k : Result) : gate s k = .next s := if_neg h

theorem require_holds {conds : List Bool} (h : conds.all id = true) (w : Word) (s : State) (k : Result) :
    require conds w s k = k := by simp only [require, h, if_true]

theorem require_fails {conds : List Bool} (h : conds.all id = false) (w : Word) (s : State) (k : Result) :
    require conds w s k = .next (s.raise .sequenceError w) := by simp [require, h]

@[simp] theorem check_true (e : ErrorKind) (w : Word) (s : State) (k : Result) : check true e w s k = k := rfl

@[simp] theorem check_false (e : ErrorKind) (w : Word) (s : State) (k : Result) :
    check false e w s k = .next (s.raise e w) := rfl

@[simp] theorem checkSome_some {α : Type} (a : α) (e : ErrorKind) (w : Word) (s : State) (k : α → Result) :
    checkSome (some a) e w s k = k a := rfl

@[simp] theorem checkSome_none {α : Type} (e : ErrorKind) (w : Word) (s : State) (k : α → Result) :
    checkSome none e w s k = .next (s.raise e w) := rfl

@[simp] theorem reading_some {α : Type} (a : α) (f : Fault) (k : α → Result) : reading (some a) f k = k a := rfl

@[simp] theorem reading_none {α : Type} (f : Fault) (k : α → Result) : reading none f k = .fault f := rfl

@[simp] theorem assured_true (f : Fault) (k : Result) : assured true f k = k := rfl

@[simp] theorem assured_false (f : Fault) (k : Result) : assured false f k = .fault f := rfl

/-- A command in the fault state changes nothing (R277). -/
theorem command_ignored {s : State} (h : s.err ≠ 0) (i : Instr) (req : List Bool) (k : Word → Result) :
    command i req s k = .next s := gate_shut h _

/-- A command out of order raises SequenceError (R274). -/
theorem command_outOfOrder {s : State} (h : s.err = 0) (i : Instr) {req : List Bool} (hr : req.all id = false)
    (k : Word → Result) : command i req s k = .next (s.raise .sequenceError (encode i)) := by
  rw [command, gate_open h, require_fails hr]

/-- A command in order goes on to its Checks with its command word. -/
theorem command_inOrder {s : State} (h : s.err = 0) (i : Instr) {req : List Bool} (hr : req.all id = true)
    (k : Word → Result) : command i req s k = k (encode i) := by
  rw [command, gate_open h, require_holds hr]

/-! ## Inversion: everything a shared operation can have done when it answers a next state -/

theorem command_next {i : Instr} {req : List Bool} {s t : State} {k : Word → Result}
    (h : command i req s k = .next t) :
    (s.err ≠ 0 ∧ t = s) ∨ (s.err = 0 ∧ req.all id = false ∧ t = s.raise .sequenceError (encode i)) ∨
      (s.err = 0 ∧ req.all id = true ∧ k (encode i) = .next t) := by
  by_cases he : s.err = 0
  · cases hr : req.all id
    · rw [command_outOfOrder he i hr] at h
      exact .inr (.inl ⟨he, rfl, (Outcome.next.inj h).symm⟩)
    · rw [command_inOrder he i hr] at h
      exact .inr (.inr ⟨he, rfl, h⟩)
  · rw [command_ignored he] at h
    exact .inl ⟨he, (Outcome.next.inj h).symm⟩

theorem check_next {ok : Bool} {e : ErrorKind} {w : Word} {s t : State} {k : Result}
    (h : check ok e w s k = .next t) : (ok = false ∧ t = s.raise e w) ∨ (ok = true ∧ k = .next t) := by
  cases ok
  · exact .inl ⟨rfl, (Outcome.next.inj h).symm⟩
  · exact .inr ⟨rfl, h⟩

theorem checkSome_next {α : Type} {o : Option α} {e : ErrorKind} {w : Word} {s t : State} {k : α → Result}
    (h : checkSome o e w s k = .next t) : (o = none ∧ t = s.raise e w) ∨ ∃ a, o = some a ∧ k a = .next t := by
  cases o with
  | none => exact .inl ⟨rfl, (Outcome.next.inj h).symm⟩
  | some a => exact .inr ⟨a, rfl, h⟩

theorem reading_next {α : Type} {o : Option α} {f : Fault} {t : State} {k : α → Result}
    (h : reading o f k = .next t) : ∃ a, o = some a ∧ k a = .next t := by
  cases o with
  | none => exact absurd h (by simp)
  | some a => exact ⟨a, rfl, h⟩

theorem assured_next {ok : Bool} {f : Fault} {t : State} {k : Result} (h : assured ok f k = .next t) :
    ok = true ∧ k = .next t := by
  cases ok with
  | false => exact absurd h (by simp)
  | true => exact ⟨rfl, h⟩

/-- What a command does to the state when it neither ignores nor refuses: the body of the writer's commands. -/
theorem moveWriter_next {s t : State} {move : List Bool → Walk → Walk} (h : moveWriter s move = .next t) :
    ∃ cur data ec, s.cursor = some cur ∧ cur.onPath = true ∧ entries s.dcw s.dlen.toNat = some data ∧
      entries s.ecw s.elen.toNat = some ec ∧
      t = s.withWalk (move (codewordBits (data ++ ec)) { g := s.g, zst := s.zst, cur := cur }) := by
  obtain ⟨cur, hc, h⟩ := reading_next h
  obtain ⟨hp, h⟩ := assured_next h
  obtain ⟨data, hd, h⟩ := reading_next h
  obtain ⟨ec, he, h⟩ := reading_next h
  exact ⟨cur, data, ec, hc, hp, hd, he, (Outcome.next.inj h).symm⟩

/-! ## Buffers (R26) -/

/-- A buffer that holds exactly as many entries as its length register says is read whole. -/
@[simp] theorem entries_of_length {α : Type} {buf : List α} {len : Nat} (h : buf.length = len) :
    entries buf len = some buf := by simp [entries, ← h]

theorem entries_some {α : Type} {buf out : List α} {len : Nat} (h : entries buf len = some out) :
    len ≤ buf.length ∧ out = buf.take len := by
  unfold entries at h; split at h
  · exact ⟨‹_›, (Option.some.inj h).symm⟩
  · exact absurd h (by simp)

/-- A write at the length register's index appends. -/
@[simp] theorem appended_of_length {α : Type} {buf : List α} {len : Nat} (h : buf.length = len) (v : α) :
    appended buf len v = buf ++ [v] := by simp [appended, ← h]

/-- After an append the buffer again holds as many entries as its length register says. -/
theorem appended_length {α : Type} {buf : List α} {len : Nat} (h : len ≤ buf.length) (v : α) :
    (appended buf len v).length = len + 1 := by simp [appended, Nat.min_eq_left h]

/-! ## The step (R100, R300) -/

theorem takeInput_nil {s : State} (h : s.inbox = []) : takeInput s = .none := by simp [takeInput, h]

theorem takeInput_rst {s : State} {rest : List HostInput} (h : s.inbox = .rst :: rest) :
    takeInput s = .rst { s with inbox := rest } := by simp [takeInput, h]

theorem takeInput_command {s : State} {w : Word} {rest : List HostInput} (h : s.inbox = .command w :: rest) :
    takeInput s = .command w { s with inbox := rest } := by simp [takeInput, h]

/-- Everything a step that answers next can have done. -/
theorem step_next {s t : State} (h : step s = .next t) :
    (s.inbox = [] ∧ t = s) ∨
    (∃ rest, s.inbox = .rst :: rest ∧ t = State.fresh s.cfg rest) ∨
    (∃ w rest, s.inbox = .command w :: rest ∧
      ((∃ i, decode w = some i ∧ exec i { s with inbox := rest } = .next t) ∨
        (decode w = none ∧ illegalCommand w { s with inbox := rest } = .next t))) := by
  match hin : s.inbox with
  | [] =>
    simp only [step, takeInput_nil hin] at h
    exact .inl ⟨rfl, (Outcome.next.inj h).symm⟩
  | .rst :: rest =>
    simp only [step, takeInput_rst hin] at h
    exact .inr (.inl ⟨rest, rfl, (Outcome.next.inj h).symm⟩)
  | .command w :: rest =>
    simp only [step, takeInput_command hin] at h
    refine .inr (.inr ⟨w, rest, rfl, ?_⟩)
    cases hd : decode w with
    | none => rw [hd] at h; exact .inr ⟨rfl, h⟩
    | some i => rw [hd] at h; exact .inl ⟨i, rfl, h⟩

/-- An illegal word either is ignored or raises IllegalCommand (R85, R277). -/
theorem illegalCommand_next {w : Word} {s t : State} (h : illegalCommand w s = .next t) :
    (s.err ≠ 0 ∧ t = s) ∨ (s.err = 0 ∧ t = s.raise .illegalCommand w) := by
  by_cases he : s.err = 0
  · rw [illegalCommand, gate_open he] at h
    exact .inr ⟨he, (Outcome.next.inj h).symm⟩
  · rw [illegalCommand, gate_shut he] at h
    exact .inl ⟨he, (Outcome.next.inj h).symm⟩

end Sys2Proof.Machine
end

