-- ==== Sys2Proof/Laws/Commands.lean ====
section
/-! SUPPORT. One inversion lemma per command: everything the command can have done when it answers a next state: it was
ignored (ERR ≠ 0), it raised (with the test that failed), or it took effect (with what its Requires and Checks
established). A proof over commands cites these and unfolds no meaning. -/

namespace Sys2Proof.Machine

open Host Sys2Proof.Safety

/-- NEWREQ always takes effect (R101). -/
theorem execNewreq_next {s t : State} (h : execNewreq s = .next t) : t = s.restart := (Outcome.next.inj h).symm

/-- SETLVL (R102). -/
theorem execSetlvl_next {tok : Byte} {s t : State} (h : execSetlvl tok s = .next t) :
    (s.err ≠ 0 ∧ t = s) ∨
    (s.err = 0 ∧ inOrder (.setlvl tok) s = false ∧ t = s.raise .sequenceError (encode (.setlvl tok))) ∨
    (s.err = 0 ∧ inOrder (.setlvl tok) s = true ∧ levelOfToken tok = none ∧
      t = s.raise .invalidLevelError (encode (.setlvl tok))) ∨
    (s.err = 0 ∧ inOrder (.setlvl tok) s = true ∧ ∃ l, levelOfToken tok = some l ∧
      t = { s with level := some l }.setFlag .lvlv) := by
  have ord : inOrder (.setlvl tok) s = ([!s.flag .lvlv] : List Bool).all id := by
    simp [inOrder, needsOne, needsZero, needsState]
  unfold execSetlvl at h
  rcases command_next h with ⟨he, rfl⟩ | ⟨he, hr, rfl⟩ | ⟨he, hr, h⟩
  · exact .inl ⟨he, rfl⟩
  · exact .inr (.inl ⟨he, ord.trans hr, rfl⟩)
  replace hr := ord.trans hr
  rcases checkSome_next h with ⟨h1, rfl⟩ | ⟨l, h1, h⟩
  · exact .inr (.inr (.inl ⟨he, hr, h1, rfl⟩))
  exact .inr (.inr (.inr (⟨he, hr, l, h1, (Outcome.next.inj h).symm⟩)))

/-- MSGCH (R103). -/
theorem execMsgch_next {cp : CodePoint} {s t : State} (h : execMsgch cp s = .next t) :
    (s.err ≠ 0 ∧ t = s) ∨
    (s.err = 0 ∧ inOrder (.msgch cp) s = false ∧ t = s.raise .sequenceError (encode (.msgch cp))) ∨
    (s.err = 0 ∧ inOrder (.msgch cp) s = true ∧ ¬ cp.toNat ≤ s.cfg.cpMax ∧
      t = s.raise .operandRange (encode (.msgch cp))) ∨
    (s.err = 0 ∧ inOrder (.msgch cp) s = true ∧ cp.toNat ≤ s.cfg.cpMax ∧ ¬ s.msglen.toNat < s.cfg.msgMax ∧
      t = s.raise .bufferOverflow (encode (.msgch cp))) ∨
    (s.err = 0 ∧ inOrder (.msgch cp) s = true ∧ cp.toNat ≤ s.cfg.cpMax ∧ s.msglen.toNat < s.cfg.msgMax ∧
      t = { s with msg := appended s.msg s.msglen.toNat cp, msglen := s.msglen + 1 }) := by
  have ord : inOrder (.msgch cp) s = ([!s.flag .modev, !s.flag .raw] : List Bool).all id := by
    simp [inOrder, needsOne, needsZero, needsState]
  unfold execMsgch at h
  rcases command_next h with ⟨he, rfl⟩ | ⟨he, hr, rfl⟩ | ⟨he, hr, h⟩
  · exact .inl ⟨he, rfl⟩
  · exact .inr (.inl ⟨he, ord.trans hr, rfl⟩)
  replace hr := ord.trans hr
  rcases check_next h with ⟨h1, rfl⟩ | ⟨h1, h⟩
  · exact .inr (.inr (.inl ⟨he, hr, of_decide_eq_false h1, rfl⟩))
  rcases check_next h with ⟨h2, rfl⟩ | ⟨h2, h⟩
  · exact .inr (.inr (.inr (.inl ⟨he, hr, of_decide_eq_true h1, of_decide_eq_false h2, rfl⟩)))
  exact .inr (.inr (.inr (.inr (⟨he, hr, of_decide_eq_true h1, of_decide_eq_true h2, (Outcome.next.inj h).symm⟩))))

/-- DCWPUSH (R104). -/
theorem execDcwpush_next {b : Byte} {s t : State} (h : execDcwpush b s = .next t) :
    (s.err ≠ 0 ∧ t = s) ∨
    (s.err = 0 ∧ inOrder (.dcwpush b) s = false ∧ t = s.raise .sequenceError (encode (.dcwpush b))) ∨
    (s.err = 0 ∧ inOrder (.dcwpush b) s = true ∧ ¬ s.dlen.toNat < DCWMAX ∧
      t = s.raise .bufferOverflow (encode (.dcwpush b))) ∨
    (s.err = 0 ∧ inOrder (.dcwpush b) s = true ∧ s.dlen.toNat < DCWMAX ∧
      t = ({ s with dcw := appended s.dcw s.dlen.toNat b, dlen := s.dlen + 1 }.setFlag .dcwv).setFlag .raw) := by
  have ord : inOrder (.dcwpush b) s = ([!s.flag .modev, !s.flag .ecwv] : List Bool).all id := by
    simp [inOrder, needsOne, needsZero, needsState]
  unfold execDcwpush at h
  rcases command_next h with ⟨he, rfl⟩ | ⟨he, hr, rfl⟩ | ⟨he, hr, h⟩
  · exact .inl ⟨he, rfl⟩
  · exact .inr (.inl ⟨he, ord.trans hr, rfl⟩)
  replace hr := ord.trans hr
  rcases check_next h with ⟨h1, rfl⟩ | ⟨h1, h⟩
  · exact .inr (.inr (.inl ⟨he, hr, of_decide_eq_false h1, rfl⟩))
  exact .inr (.inr (.inr (⟨he, hr, of_decide_eq_true h1, (Outcome.next.inj h).symm⟩)))

/-- RDDCW (R105). -/
theorem execRddcw_next {i : Byte} {s t : State} (h : execRddcw i s = .next t) :
    (s.err ≠ 0 ∧ t = s) ∨
    (s.err = 0 ∧ inOrder (.rddcw i) s = false ∧ t = s.raise .sequenceError (encode (.rddcw i))) ∨
    (s.err = 0 ∧ inOrder (.rddcw i) s = true ∧ ¬ i.toNat < s.dlen.toNat ∧
      t = s.raise .operandRange (encode (.rddcw i))) ∨
    (s.err = 0 ∧ inOrder (.rddcw i) s = true ∧ i.toNat < s.dlen.toNat ∧ ∃ b, s.dcw[i.toNat]? = some b ∧
      t = s.setRes b) := by
  have ord : inOrder (.rddcw i) s = ([s.flag .dcwv] : List Bool).all id := by
    simp [inOrder, needsOne, needsZero, needsState]
  unfold execRddcw at h
  rcases command_next h with ⟨he, rfl⟩ | ⟨he, hr, rfl⟩ | ⟨he, hr, h⟩
  · exact .inl ⟨he, rfl⟩
  · exact .inr (.inl ⟨he, ord.trans hr, rfl⟩)
  replace hr := ord.trans hr
  rcases check_next h with ⟨h1, rfl⟩ | ⟨h1, h⟩
  · exact .inr (.inr (.inl ⟨he, hr, of_decide_eq_false h1, rfl⟩))
  obtain ⟨b, h2, h⟩ := reading_next h
  exact .inr (.inr (.inr (⟨he, hr, of_decide_eq_true h1, b, h2, (Outcome.next.inj h).symm⟩)))

/-- RDECW (R106). -/
theorem execRdecw_next {i : Byte} {s t : State} (h : execRdecw i s = .next t) :
    (s.err ≠ 0 ∧ t = s) ∨
    (s.err = 0 ∧ inOrder (.rdecw i) s = false ∧ t = s.raise .sequenceError (encode (.rdecw i))) ∨
    (s.err = 0 ∧ inOrder (.rdecw i) s = true ∧ ¬ i.toNat < s.elen.toNat ∧
      t = s.raise .operandRange (encode (.rdecw i))) ∨
    (s.err = 0 ∧ inOrder (.rdecw i) s = true ∧ i.toNat < s.elen.toNat ∧ ∃ b, s.ecw[i.toNat]? = some b ∧
      t = s.setRes b) := by
  have ord : inOrder (.rdecw i) s = ([s.flag .ecwv] : List Bool).all id := by
    simp [inOrder, needsOne, needsZero, needsState]
  unfold execRdecw at h
  rcases command_next h with ⟨he, rfl⟩ | ⟨he, hr, rfl⟩ | ⟨he, hr, h⟩
  · exact .inl ⟨he, rfl⟩
  · exact .inr (.inl ⟨he, ord.trans hr, rfl⟩)
  replace hr := ord.trans hr
  rcases check_next h with ⟨h1, rfl⟩ | ⟨h1, h⟩
  · exact .inr (.inr (.inl ⟨he, hr, of_decide_eq_false h1, rfl⟩))
  obtain ⟨b, h2, h⟩ := reading_next h
  exact .inr (.inr (.inr (⟨he, hr, of_decide_eq_true h1, b, h2, (Outcome.next.inj h).symm⟩)))

/-- RDGEN (R107). -/
theorem execRdgen_next {i : Byte} {s t : State} (h : execRdgen i s = .next t) :
    (s.err ≠ 0 ∧ t = s) ∨
    (s.err = 0 ∧ inOrder (.rdgen i) s = false ∧ t = s.raise .sequenceError (encode (.rdgen i))) ∨
    (s.err = 0 ∧ inOrder (.rdgen i) s = true ∧ ∃ n, s.gendeg = some n ∧ ¬ i.toNat ≤ n.toNat ∧
      t = s.raise .operandRange (encode (.rdgen i))) ∨
    (s.err = 0 ∧ inOrder (.rdgen i) s = true ∧ ∃ n, s.gendeg = some n ∧ i.toNat ≤ n.toNat ∧
      ∃ gen, s.gen = some gen ∧ ∃ b, gen[i.toNat]? = some b ∧
      t = s.setRes b) := by
  have ord : inOrder (.rdgen i) s = ([s.flag .genv] : List Bool).all id := by
    simp [inOrder, needsOne, needsZero, needsState]
  unfold execRdgen at h
  rcases command_next h with ⟨he, rfl⟩ | ⟨he, hr, rfl⟩ | ⟨he, hr, h⟩
  · exact .inl ⟨he, rfl⟩
  · exact .inr (.inl ⟨he, ord.trans hr, rfl⟩)
  replace hr := ord.trans hr
  obtain ⟨n, h1, h⟩ := reading_next h
  rcases check_next h with ⟨h2, rfl⟩ | ⟨h2, h⟩
  · exact .inr (.inr (.inl ⟨he, hr, n, h1, of_decide_eq_false h2, rfl⟩))
  obtain ⟨gen, h3, h⟩ := reading_next h
  obtain ⟨b, h4, h⟩ := reading_next h
  exact .inr (.inr (.inr (⟨he, hr, n, h1, of_decide_eq_true h2, gen, h3, b, h4, (Outcome.next.inj h).symm⟩)))

/-- RDBIT (R108). -/
theorem execRdbit_next {i : Byte} {s t : State} (h : execRdbit i s = .next t) :
    (s.err ≠ 0 ∧ t = s) ∨
    (s.err = 0 ∧ inOrder (.rdbit i) s = false ∧ t = s.raise .sequenceError (encode (.rdbit i))) ∨
    (s.err = 0 ∧ inOrder (.rdbit i) s = true ∧ ∃ n, s.bitlen = some n ∧ ¬ i.toNat < n.toNat ∧
      t = s.raise .operandRange (encode (.rdbit i))) ∨
    (s.err = 0 ∧ inOrder (.rdbit i) s = true ∧ ∃ n, s.bitlen = some n ∧ i.toNat < n.toNat ∧
      ∃ b, s.bits[i.toNat]? = some b ∧
      t = s.setRes (BitVec.ofBool b)) := by
  have ord : inOrder (.rdbit i) s = ([s.flag .asmv] : List Bool).all id := by
    simp [inOrder, needsOne, needsZero, needsState]
  unfold execRdbit at h
  rcases command_next h with ⟨he, rfl⟩ | ⟨he, hr, rfl⟩ | ⟨he, hr, h⟩
  · exact .inl ⟨he, rfl⟩
  · exact .inr (.inl ⟨he, ord.trans hr, rfl⟩)
  replace hr := ord.trans hr
  obtain ⟨n, h1, h⟩ := reading_next h
  rcases check_next h with ⟨h2, rfl⟩ | ⟨h2, h⟩
  · exact .inr (.inr (.inl ⟨he, hr, n, h1, of_decide_eq_false h2, rfl⟩))
  obtain ⟨b, h3, h⟩ := reading_next h
  exact .inr (.inr (.inr (⟨he, hr, n, h1, of_decide_eq_true h2, b, h3, (Outcome.next.inj h).symm⟩)))

/-- RDCELL (R109). -/
theorem execRdcell_next {r c : BitVec 5} {s t : State} (h : execRdcell r c s = .next t) :
    (s.err ≠ 0 ∧ t = s) ∨
    (s.err = 0 ∧ inOrder (.rdcell r c) s = false ∧ t = s.raise .sequenceError (encode (.rdcell r c))) ∨
    (s.err = 0 ∧ inOrder (.rdcell r c) s = true ∧ inGrid r.toNat c.toNat = false ∧
      t = s.raise .operandRange (encode (.rdcell r c))) ∨
    (s.err = 0 ∧ inOrder (.rdcell r c) s = true ∧ inGrid r.toNat c.toNat = true ∧
      t = s.setRes (s.g.read r.toNat c.toNat).code) := by
  have ord : inOrder (.rdcell r c) s = ([] : List Bool).all id := by
    simp [inOrder, needsOne, needsZero, needsState]
  unfold execRdcell at h
  rcases command_next h with ⟨he, rfl⟩ | ⟨he, hr, rfl⟩ | ⟨he, hr, h⟩
  · exact .inl ⟨he, rfl⟩
  · exact .inr (.inl ⟨he, ord.trans hr, rfl⟩)
  replace hr := ord.trans hr
  rcases check_next h with ⟨h1, rfl⟩ | ⟨h1, h⟩
  · exact .inr (.inr (.inl ⟨he, hr, h1, rfl⟩))
  exact .inr (.inr (.inr (⟨he, hr, h1, (Outcome.next.inj h).symm⟩)))

/-- RDFUNC (R110). -/
theorem execRdfunc_next {r c : BitVec 5} {s t : State} (h : execRdfunc r c s = .next t) :
    (s.err ≠ 0 ∧ t = s) ∨
    (s.err = 0 ∧ inOrder (.rdfunc r c) s = false ∧ t = s.raise .sequenceError (encode (.rdfunc r c))) ∨
    (s.err = 0 ∧ inOrder (.rdfunc r c) s = true ∧ inGrid r.toNat c.toNat = false ∧
      t = s.raise .operandRange (encode (.rdfunc r c))) ∨
    (s.err = 0 ∧ inOrder (.rdfunc r c) s = true ∧ inGrid r.toNat c.toNat = true ∧
      t = s.setRes (BitVec.ofBool (isFunction r.toNat c.toNat))) := by
  have ord : inOrder (.rdfunc r c) s = ([] : List Bool).all id := by
    simp [inOrder, needsOne, needsZero, needsState]
  unfold execRdfunc at h
  rcases command_next h with ⟨he, rfl⟩ | ⟨he, hr, rfl⟩ | ⟨he, hr, h⟩
  · exact .inl ⟨he, rfl⟩
  · exact .inr (.inl ⟨he, ord.trans hr, rfl⟩)
  replace hr := ord.trans hr
  rcases check_next h with ⟨h1, rfl⟩ | ⟨h1, h⟩
  · exact .inr (.inr (.inl ⟨he, hr, h1, rfl⟩))
  exact .inr (.inr (.inr (⟨he, hr, h1, (Outcome.next.inj h).symm⟩)))

/-- GFEXP (R128). -/
theorem execGfexp_next {i : Byte} {s t : State} (h : execGfexp i s = .next t) :
    (s.err ≠ 0 ∧ t = s) ∨
    (s.err = 0 ∧ inOrder (.gfexp i) s = false ∧ t = s.raise .sequenceError (encode (.gfexp i))) ∨
    (s.err = 0 ∧ inOrder (.gfexp i) s = true ∧
      t = s.setRes (expRom i)) := by
  have ord : inOrder (.gfexp i) s = ([] : List Bool).all id := by
    simp [inOrder, needsOne, needsZero, needsState]
  unfold execGfexp at h
  rcases command_next h with ⟨he, rfl⟩ | ⟨he, hr, rfl⟩ | ⟨he, hr, h⟩
  · exact .inl ⟨he, rfl⟩
  · exact .inr (.inl ⟨he, ord.trans hr, rfl⟩)
  replace hr := ord.trans hr
  exact .inr (.inr (⟨he, hr, (Outcome.next.inj h).symm⟩))

/-- GFLOG (R129). -/
theorem execGflog_next {v : Byte} {s t : State} (h : execGflog v s = .next t) :
    (s.err ≠ 0 ∧ t = s) ∨
    (s.err = 0 ∧ inOrder (.gflog v) s = false ∧ t = s.raise .sequenceError (encode (.gflog v))) ∨
    (s.err = 0 ∧ inOrder (.gflog v) s = true ∧ logRom s.cfg.log1 v = none ∧
      t = s.raise .logZero (encode (.gflog v))) ∨
    (s.err = 0 ∧ inOrder (.gflog v) s = true ∧ ∃ l, logRom s.cfg.log1 v = some l ∧
      t = s.setRes l) := by
  have ord : inOrder (.gflog v) s = ([] : List Bool).all id := by
    simp [inOrder, needsOne, needsZero, needsState]
  unfold execGflog at h
  rcases command_next h with ⟨he, rfl⟩ | ⟨he, hr, rfl⟩ | ⟨he, hr, h⟩
  · exact .inl ⟨he, rfl⟩
  · exact .inr (.inl ⟨he, ord.trans hr, rfl⟩)
  replace hr := ord.trans hr
  rcases checkSome_next h with ⟨h1, rfl⟩ | ⟨l, h1, h⟩
  · exact .inr (.inr (.inl ⟨he, hr, h1, rfl⟩))
  exact .inr (.inr (.inr (⟨he, hr, l, h1, (Outcome.next.inj h).symm⟩)))

/-- GFADD (R130). -/
theorem execGfadd_next {a b : Byte} {s t : State} (h : execGfadd a b s = .next t) :
    (s.err ≠ 0 ∧ t = s) ∨
    (s.err = 0 ∧ inOrder (.gfadd a b) s = false ∧ t = s.raise .sequenceError (encode (.gfadd a b))) ∨
    (s.err = 0 ∧ inOrder (.gfadd a b) s = true ∧
      t = s.setRes (gfAdd a b)) := by
  have ord : inOrder (.gfadd a b) s = ([] : List Bool).all id := by
    simp [inOrder, needsOne, needsZero, needsState]
  unfold execGfadd at h
  rcases command_next h with ⟨he, rfl⟩ | ⟨he, hr, rfl⟩ | ⟨he, hr, h⟩
  · exact .inl ⟨he, rfl⟩
  · exact .inr (.inl ⟨he, ord.trans hr, rfl⟩)
  replace hr := ord.trans hr
  exact .inr (.inr (⟨he, hr, (Outcome.next.inj h).symm⟩))

/-- GFMUL (R131). -/
theorem execGfmul_next {a b : Byte} {s t : State} (h : execGfmul a b s = .next t) :
    (s.err ≠ 0 ∧ t = s) ∨
    (s.err = 0 ∧ inOrder (.gfmul a b) s = false ∧ t = s.raise .sequenceError (encode (.gfmul a b))) ∨
    (s.err = 0 ∧ inOrder (.gfmul a b) s = true ∧
      t = s.setRes (gfMul s.cfg.log1 a b)) := by
  have ord : inOrder (.gfmul a b) s = ([] : List Bool).all id := by
    simp [inOrder, needsOne, needsZero, needsState]
  unfold execGfmul at h
  rcases command_next h with ⟨he, rfl⟩ | ⟨he, hr, rfl⟩ | ⟨he, hr, h⟩
  · exact .inl ⟨he, rfl⟩
  · exact .inr (.inl ⟨he, ord.trans hr, rfl⟩)
  replace hr := ord.trans hr
  exact .inr (.inr (⟨he, hr, (Outcome.next.inj h).symm⟩))

/-- RSGEN (R146). -/
theorem execRsgen_next {n : Byte} {s t : State} (h : execRsgen n s = .next t) :
    (s.err ≠ 0 ∧ t = s) ∨
    (s.err = 0 ∧ inOrder (.rsgen n) s = false ∧ t = s.raise .sequenceError (encode (.rsgen n))) ∨
    (s.err = 0 ∧ inOrder (.rsgen n) s = true ∧ (1 ≤ n.toNat && n.toNat ≤ 25) = false ∧
      t = s.raise .operandRange (encode (.rsgen n))) ∨
    (s.err = 0 ∧ inOrder (.rsgen n) s = true ∧ (1 ≤ n.toNat && n.toNat ≤ 25) = true ∧
      t = s.withGenerator n.toNat) := by
  have ord : inOrder (.rsgen n) s = ([!s.flag .genv] : List Bool).all id := by
    simp [inOrder, needsOne, needsZero, needsState]
  unfold execRsgen at h
  rcases command_next h with ⟨he, rfl⟩ | ⟨he, hr, rfl⟩ | ⟨he, hr, h⟩
  · exact .inl ⟨he, rfl⟩
  · exact .inr (.inl ⟨he, ord.trans hr, rfl⟩)
  replace hr := ord.trans hr
  rcases check_next h with ⟨h1, rfl⟩ | ⟨h1, h⟩
  · exact .inr (.inr (.inl ⟨he, hr, h1, rfl⟩))
  exact .inr (.inr (.inr (⟨he, hr, h1, (Outcome.next.inj h).symm⟩)))

/-- RSGENL (R147). -/
theorem execRsgenl_next {s t : State} (h : execRsgenl s = .next t) :
    (s.err ≠ 0 ∧ t = s) ∨
    (s.err = 0 ∧ inOrder .rsgenl s = false ∧ t = s.raise .sequenceError (encode .rsgenl)) ∨
    (s.err = 0 ∧ inOrder .rsgenl s = true ∧ ∃ l, s.level = some l ∧
      t = s.withGenerator (s.cfg.nec.get l)) := by
  have ord : inOrder .rsgenl s = ([s.flag .lvlv, !s.flag .genv] : List Bool).all id := by
    simp [inOrder, needsOne, needsZero, needsState]
  unfold execRsgenl at h
  rcases command_next h with ⟨he, rfl⟩ | ⟨he, hr, rfl⟩ | ⟨he, hr, h⟩
  · exact .inl ⟨he, rfl⟩
  · exact .inr (.inl ⟨he, ord.trans hr, rfl⟩)
  replace hr := ord.trans hr
  obtain ⟨l, h1, h⟩ := reading_next h
  exact .inr (.inr (⟨he, hr, l, h1, (Outcome.next.inj h).symm⟩))

/-- RSENC (R148). -/
theorem execRsenc_next {s t : State} (h : execRsenc s = .next t) :
    (s.err ≠ 0 ∧ t = s) ∨
    (s.err = 0 ∧ inOrder .rsenc s = false ∧ t = s.raise .sequenceError (encode .rsenc)) ∨
    (s.err = 0 ∧ inOrder .rsenc s = true ∧ ∃ n, s.gendeg = some n ∧ ¬ s.dlen.toNat + n.toNat ≤ TOTALCW ∧
      t = s.raise .operandRange (encode .rsenc)) ∨
    (s.err = 0 ∧ inOrder .rsenc s = true ∧ ∃ n, s.gendeg = some n ∧ s.dlen.toNat + n.toNat ≤ TOTALCW ∧
      ∃ data, entries s.dcw s.dlen.toNat = some data ∧ ∃ gen, s.gen = some gen ∧
      ∃ g, entries gen (n.toNat + 1) = some g ∧
      t = { s with ecw := rsEncodeWith s.cfg.log1 g data n.toNat, elen := n }.setFlag .ecwv) := by
  have ord : inOrder .rsenc s = ([s.flag .dcwv, s.flag .genv, !s.flag .ecwv] : List Bool).all id := by
    simp [inOrder, needsOne, needsZero, needsState] <;> ac_rfl
  unfold execRsenc at h
  rcases command_next h with ⟨he, rfl⟩ | ⟨he, hr, rfl⟩ | ⟨he, hr, h⟩
  · exact .inl ⟨he, rfl⟩
  · exact .inr (.inl ⟨he, ord.trans hr, rfl⟩)
  replace hr := ord.trans hr
  obtain ⟨n, h1, h⟩ := reading_next h
  rcases check_next h with ⟨h2, rfl⟩ | ⟨h2, h⟩
  · exact .inr (.inr (.inl ⟨he, hr, n, h1, of_decide_eq_false h2, rfl⟩))
  obtain ⟨data, h3, h⟩ := reading_next h
  obtain ⟨gen, h4, h⟩ := reading_next h
  obtain ⟨g, h5, h⟩ := reading_next h
  exact .inr (.inr (.inr (⟨he, hr, n, h1, of_decide_eq_true h2, data, h3, gen, h4, g, h5, (Outcome.next.inj h).symm⟩)))

/-- BSMODE (R174). -/
theorem execBsmode_next {s t : State} (h : execBsmode s = .next t) :
    (s.err ≠ 0 ∧ t = s) ∨
    (s.err = 0 ∧ inOrder .bsmode s = false ∧ t = s.raise .sequenceError (encode .bsmode)) ∨
    (s.err = 0 ∧ inOrder .bsmode s = true ∧ ∃ msg, entries s.msg s.msglen.toNat = some msg ∧
      (detectMode s.cfg msg == .alphanumeric || checkBytes msg) = false ∧
      t = s.raise .unsupportedCharacterError (encode .bsmode)) ∨
    (s.err = 0 ∧ inOrder .bsmode s = true ∧ ∃ msg, entries s.msg s.msglen.toNat = some msg ∧
      (detectMode s.cfg msg == .alphanumeric || checkBytes msg) = true ∧
      t = ({ s with mode := some (detectMode s.cfg msg) }.setFlag .modev).setRes (detectMode s.cfg msg).code) := by
  have ord : inOrder .bsmode s = ([s.flag .lvlv, !s.flag .modev, !s.flag .raw] : List Bool).all id := by
    simp [inOrder, needsOne, needsZero, needsState]
  unfold execBsmode at h
  rcases command_next h with ⟨he, rfl⟩ | ⟨he, hr, rfl⟩ | ⟨he, hr, h⟩
  · exact .inl ⟨he, rfl⟩
  · exact .inr (.inl ⟨he, ord.trans hr, rfl⟩)
  replace hr := ord.trans hr
  obtain ⟨msg, h1, h⟩ := reading_next h
  rcases check_next h with ⟨h2, rfl⟩ | ⟨h2, h⟩
  · exact .inr (.inr (.inl ⟨he, hr, msg, h1, h2, rfl⟩))
  exact .inr (.inr (.inr (⟨he, hr, msg, h1, h2, (Outcome.next.inj h).symm⟩)))

/-- BSCHK (R175). -/
theorem execBschk_next {s t : State} (h : execBschk s = .next t) :
    (s.err ≠ 0 ∧ t = s) ∨
    (s.err = 0 ∧ inOrder .bschk s = false ∧ t = s.raise .sequenceError (encode .bschk)) ∨
    (s.err = 0 ∧ inOrder .bschk s = true ∧ ∃ m, s.mode = some m ∧ ∃ l, s.level = some l ∧
      ¬ requiredBits m s.msglen.toNat ≤ capBits s.cfg l ∧ t = s.raise .capacityExceededError (encode .bschk)) ∨
    (s.err = 0 ∧ inOrder .bschk s = true ∧ ∃ m, s.mode = some m ∧ ∃ l, s.level = some l ∧
      requiredBits m s.msglen.toNat ≤ capBits s.cfg l ∧
      t = ({ s with reqbits := some (BitVec.ofNat 16 (requiredBits m s.msglen.toNat)) }.setFlag .chkv).setRes
        (BitVec.ofNat 16 (requiredBits m s.msglen.toNat))) := by
  have ord : inOrder .bschk s = ([s.flag .modev, !s.flag .chkv] : List Bool).all id := by
    simp [inOrder, needsOne, needsZero, needsState]
  unfold execBschk at h
  rcases command_next h with ⟨he, rfl⟩ | ⟨he, hr, rfl⟩ | ⟨he, hr, h⟩
  · exact .inl ⟨he, rfl⟩
  · exact .inr (.inl ⟨he, ord.trans hr, rfl⟩)
  replace hr := ord.trans hr
  obtain ⟨m, h1, h⟩ := reading_next h
  obtain ⟨l, h2, h⟩ := reading_next h
  rcases check_next h with ⟨h3, rfl⟩ | ⟨h3, h⟩
  · exact .inr (.inr (.inl ⟨he, hr, m, h1, l, h2, of_decide_eq_false h3, rfl⟩))
  exact .inr (.inr (.inr (⟨he, hr, m, h1, l, h2, of_decide_eq_true h3, (Outcome.next.inj h).symm⟩)))

/-- BSASM (R176). -/
theorem execBsasm_next {s t : State} (h : execBsasm s = .next t) :
    (s.err ≠ 0 ∧ t = s) ∨
    (s.err = 0 ∧ inOrder .bsasm s = false ∧ t = s.raise .sequenceError (encode .bsasm)) ∨
    (s.err = 0 ∧ inOrder .bsasm s = true ∧ ∃ m, s.mode = some m ∧ ∃ req, s.reqbits = some req ∧
      ∃ msg, entries s.msg s.msglen.toNat = some msg ∧ ∃ bs, assemble s.cfg m msg = some bs ∧
      t = { s with bits := bs, bitlen := some (req.setWidth 8) }.setFlag .asmv) := by
  have ord : inOrder .bsasm s = ([s.flag .chkv, !s.flag .asmv] : List Bool).all id := by
    simp [inOrder, needsOne, needsZero, needsState]
  unfold execBsasm at h
  rcases command_next h with ⟨he, rfl⟩ | ⟨he, hr, rfl⟩ | ⟨he, hr, h⟩
  · exact .inl ⟨he, rfl⟩
  · exact .inr (.inl ⟨he, ord.trans hr, rfl⟩)
  replace hr := ord.trans hr
  obtain ⟨m, h1, h⟩ := reading_next h
  obtain ⟨req, h2, h⟩ := reading_next h
  obtain ⟨msg, h3, h⟩ := reading_next h
  obtain ⟨bs, h4, h⟩ := reading_next h
  exact .inr (.inr (⟨he, hr, m, h1, req, h2, msg, h3, bs, h4, (Outcome.next.inj h).symm⟩))

/-- BSPAD (R177). -/
theorem execBspad_next {s t : State} (h : execBspad s = .next t) :
    (s.err ≠ 0 ∧ t = s) ∨
    (s.err = 0 ∧ inOrder .bspad s = false ∧ t = s.raise .sequenceError (encode .bspad)) ∨
    (s.err = 0 ∧ inOrder .bspad s = true ∧ ∃ l, s.level = some l ∧ ∃ n, s.bitlen = some n ∧
      ∃ bs, entries s.bits n.toNat = some bs ∧
      t = ({ s with
        bits := padStream (capBits s.cfg l) bs, bitlen := some (BitVec.ofNat 8 (capBits s.cfg l)),
        dcw := packBytes (s.cfg.cap.get l) (padStream (capBits s.cfg l) bs),
        dlen := BitVec.ofNat 5 (s.cfg.cap.get l) }.setFlag .dcwv).setFlag .padv) := by
  have ord : inOrder .bspad s = ([s.flag .asmv, !s.flag .padv] : List Bool).all id := by
    simp [inOrder, needsOne, needsZero, needsState]
  unfold execBspad at h
  rcases command_next h with ⟨he, rfl⟩ | ⟨he, hr, rfl⟩ | ⟨he, hr, h⟩
  · exact .inl ⟨he, rfl⟩
  · exact .inr (.inl ⟨he, ord.trans hr, rfl⟩)
  replace hr := ord.trans hr
  obtain ⟨l, h1, h⟩ := reading_next h
  obtain ⟨n, h2, h⟩ := reading_next h
  obtain ⟨bs, h3, h⟩ := reading_next h
  exact .inr (.inr (⟨he, hr, l, h1, n, h2, bs, h3, (Outcome.next.inj h).symm⟩))

/-- FPLACE (R208). -/
theorem execFplace_next {s t : State} (h : execFplace s = .next t) :
    (s.err ≠ 0 ∧ t = s) ∨
    (s.err = 0 ∧ inOrder .fplace s = false ∧ t = s.raise .sequenceError (encode .fplace)) ∨
    (s.err = 0 ∧ inOrder .fplace s = true ∧
      t = { s with g := drawFunctionPatterns s.g }.setFlag .fpv) := by
  have ord : inOrder .fplace s = ([!s.flag .fpv] : List Bool).all id := by
    simp [inOrder, needsOne, needsZero, needsState]
  unfold execFplace at h
  rcases command_next h with ⟨he, rfl⟩ | ⟨he, hr, rfl⟩ | ⟨he, hr, h⟩
  · exact .inl ⟨he, rfl⟩
  · exact .inr (.inl ⟨he, ord.trans hr, rfl⟩)
  replace hr := ord.trans hr
  exact .inr (.inr (⟨he, hr, (Outcome.next.inj h).symm⟩))

/-- ZZINIT (R209). -/
theorem execZzinit_next {s t : State} (h : execZzinit s = .next t) :
    (s.err ≠ 0 ∧ t = s) ∨
    (s.err = 0 ∧ inOrder .zzinit s = false ∧ t = s.raise .sequenceError (encode .zzinit)) ∨
    (s.err = 0 ∧ inOrder .zzinit s = true ∧
      t = { s with zst := .run, cursor := some Cursor.start }) := by
  have ord : inOrder .zzinit s = ([s.flag .fpv, s.flag .ecwv, s.zst == .idle] : List Bool).all id := by
    simp [inOrder, needsOne, needsZero, needsState] <;> ac_rfl
  unfold execZzinit at h
  rcases command_next h with ⟨he, rfl⟩ | ⟨he, hr, rfl⟩ | ⟨he, hr, h⟩
  · exact .inl ⟨he, rfl⟩
  · exact .inr (.inl ⟨he, ord.trans hr, rfl⟩)
  replace hr := ord.trans hr
  exact .inr (.inr (⟨he, hr, (Outcome.next.inj h).symm⟩))

/-- ZZSTEP (R210). -/
theorem execZzstep_next {s t : State} (h : execZzstep s = .next t) :
    (s.err ≠ 0 ∧ t = s) ∨
    (s.err = 0 ∧ inOrder .zzstep s = false ∧ t = s.raise .sequenceError (encode .zzstep)) ∨
    (s.err = 0 ∧ inOrder .zzstep s = true ∧ ∃ cur, s.cursor = some cur ∧ cur.onPath = true ∧
      ∃ data, entries s.dcw s.dlen.toNat = some data ∧ ∃ ec, entries s.ecw s.elen.toNat = some ec ∧
      t = s.withWalk
        (zzStep (codewordBits (data ++ ec)) { g := s.g, zst := s.zst, cur := cur })) := by
  have ord : inOrder .zzstep s = ([s.zst == .run] : List Bool).all id := by
    simp [inOrder, needsOne, needsZero, needsState]
  unfold execZzstep at h
  rcases command_next h with ⟨he, rfl⟩ | ⟨he, hr, rfl⟩ | ⟨he, hr, h⟩
  · exact .inl ⟨he, rfl⟩
  · exact .inr (.inl ⟨he, ord.trans hr, rfl⟩)
  replace hr := ord.trans hr
  obtain ⟨cur, h1, h⟩ := reading_next h
  obtain ⟨h2, h⟩ := assured_next h
  obtain ⟨data, h3, h⟩ := reading_next h
  obtain ⟨ec, h4, h⟩ := reading_next h
  exact .inr (.inr (⟨he, hr, cur, h1, h2, data, h3, ec, h4, (Outcome.next.inj h).symm⟩))

/-- ZZRUN (R211). -/
theorem execZzrun_next {s t : State} (h : execZzrun s = .next t) :
    (s.err ≠ 0 ∧ t = s) ∨
    (s.err = 0 ∧ inOrder .zzrun s = false ∧ t = s.raise .sequenceError (encode .zzrun)) ∨
    (s.err = 0 ∧ inOrder .zzrun s = true ∧ ∃ cur, s.cursor = some cur ∧ cur.onPath = true ∧
      ∃ data, entries s.dcw s.dlen.toNat = some data ∧ ∃ ec, entries s.ecw s.elen.toNat = some ec ∧
      t = s.withWalk
        (zzRun (codewordBits (data ++ ec)) WALKSTEPS { g := s.g, zst := s.zst, cur := cur })) := by
  have ord : inOrder .zzrun s = ([s.zst == .run] : List Bool).all id := by
    simp [inOrder, needsOne, needsZero, needsState]
  unfold execZzrun at h
  rcases command_next h with ⟨he, rfl⟩ | ⟨he, hr, rfl⟩ | ⟨he, hr, h⟩
  · exact .inl ⟨he, rfl⟩
  · exact .inr (.inl ⟨he, ord.trans hr, rfl⟩)
  replace hr := ord.trans hr
  obtain ⟨cur, h1, h⟩ := reading_next h
  obtain ⟨h2, h⟩ := assured_next h
  obtain ⟨data, h3, h⟩ := reading_next h
  obtain ⟨ec, h4, h⟩ := reading_next h
  exact .inr (.inr (⟨he, hr, cur, h1, h2, data, h3, ec, h4, (Outcome.next.inj h).symm⟩))

/-- MASKAP (R235). -/
theorem execMaskap_next {k : BitVec 3} {s t : State} (h : execMaskap k s = .next t) :
    (s.err ≠ 0 ∧ t = s) ∨
    (s.err = 0 ∧ inOrder (.maskap k) s = false ∧ t = s.raise .sequenceError (encode (.maskap k))) ∨
    (s.err = 0 ∧ inOrder (.maskap k) s = true ∧
      t = { s with g := applyMask k s.g, mskpar := s.mskpar ^^^ (1#8 <<< k.toNat) }) := by
  have ord : inOrder (.maskap k) s = ([s.flag .plv, !s.flag .done] : List Bool).all id := by
    simp [inOrder, needsOne, needsZero, needsState]
  unfold execMaskap at h
  rcases command_next h with ⟨he, rfl⟩ | ⟨he, hr, rfl⟩ | ⟨he, hr, h⟩
  · exact .inl ⟨he, rfl⟩
  · exact .inr (.inl ⟨he, ord.trans hr, rfl⟩)
  replace hr := ord.trans hr
  exact .inr (.inr (⟨he, hr, (Outcome.next.inj h).symm⟩))

/-- PENALTY (R246). -/
theorem execPenalty_next {s t : State} (h : execPenalty s = .next t) :
    (s.err ≠ 0 ∧ t = s) ∨
    (s.err = 0 ∧ inOrder .penalty s = false ∧ t = s.raise .sequenceError (encode .penalty)) ∨
    (s.err = 0 ∧ inOrder .penalty s = true ∧ s.g.complete = true ∧
      t = s.setRes (BitVec.ofNat 32 (penaltyScore s.cfg s.g))) := by
  have ord : inOrder .penalty s = ([s.flag .plv, s.flag .fmtv] : List Bool).all id := by
    simp [inOrder, needsOne, needsZero, needsState]
  unfold execPenalty at h
  rcases command_next h with ⟨he, rfl⟩ | ⟨he, hr, rfl⟩ | ⟨he, hr, h⟩
  · exact .inl ⟨he, rfl⟩
  · exact .inr (.inl ⟨he, ord.trans hr, rfl⟩)
  replace hr := ord.trans hr
  obtain ⟨h1, h⟩ := assured_next h
  exact .inr (.inr (⟨he, hr, h1, (Outcome.next.inj h).symm⟩))

/-- MASKSEL (R249). -/
theorem execMasksel_next {s t : State} (h : execMasksel s = .next t) :
    (s.err ≠ 0 ∧ t = s) ∨
    (s.err = 0 ∧ inOrder .masksel s = false ∧ t = s.raise .sequenceError (encode .masksel)) ∨
    (s.err = 0 ∧ inOrder .masksel s = true ∧ ∃ l, s.level = some l ∧ (writeFormat s.cfg l 0 s.g).complete = true ∧
      t = (({ s with
        g := (select s.cfg l s.g).g, best := some (select s.cfg l s.g).best,
        bestpen := some (BitVec.ofNat 32 (select s.cfg l s.g).bestpen),
        mskpar := 1#8 <<< (select s.cfg l s.g).best.toNat }.setFlag .fmtv).setFlag .done).setRes
        (select s.cfg l s.g).best) := by
  have ord : inOrder .masksel s = ([s.flag .plv, s.flag .lvlv, s.mskpar == 0, !s.flag .done] : List Bool).all id := by
    simp [inOrder, needsOne, needsZero, needsState] <;> ac_rfl
  unfold execMasksel at h
  rcases command_next h with ⟨he, rfl⟩ | ⟨he, hr, rfl⟩ | ⟨he, hr, h⟩
  · exact .inl ⟨he, rfl⟩
  · exact .inr (.inl ⟨he, ord.trans hr, rfl⟩)
  replace hr := ord.trans hr
  obtain ⟨l, h1, h⟩ := reading_next h
  obtain ⟨h2, h⟩ := assured_next h
  exact .inr (.inr (⟨he, hr, l, h1, h2, (Outcome.next.inj h).symm⟩))

/-- FMTWR (R265). -/
theorem execFmtwr_next {k : BitVec 3} {s t : State} (h : execFmtwr k s = .next t) :
    (s.err ≠ 0 ∧ t = s) ∨
    (s.err = 0 ∧ inOrder (.fmtwr k) s = false ∧ t = s.raise .sequenceError (encode (.fmtwr k))) ∨
    (s.err = 0 ∧ inOrder (.fmtwr k) s = true ∧ ∃ l, s.level = some l ∧
      t = { s with g := writeFormat s.cfg l k s.g }.setFlag .fmtv) := by
  have ord : inOrder (.fmtwr k) s = ([s.flag .plv, s.flag .lvlv, !s.flag .done] : List Bool).all id := by
    simp [inOrder, needsOne, needsZero, needsState] <;> ac_rfl
  unfold execFmtwr at h
  rcases command_next h with ⟨he, rfl⟩ | ⟨he, hr, rfl⟩ | ⟨he, hr, h⟩
  · exact .inl ⟨he, rfl⟩
  · exact .inr (.inl ⟨he, ord.trans hr, rfl⟩)
  replace hr := ord.trans hr
  obtain ⟨l, h1, h⟩ := reading_next h
  exact .inr (.inr (⟨he, hr, l, h1, (Outcome.next.inj h).symm⟩))

/-! ## The two ways a command does not take effect -/

/-- In the fault state every command but NEWREQ is ignored (R277). -/
theorem exec_ignored {i : Instr} {s : State} (h : s.err ≠ 0) (hn : i ≠ .newreq) : exec i s = .next s := by
  cases i with
  | newreq => exact absurd rfl hn
  | _ =>
    simp only [exec, execSetlvl, execMsgch, execDcwpush, execRddcw, execRdecw, execRdgen, execRdbit, execRdcell, 
      execRdfunc, execGfexp, execGflog, execGfadd, execGfmul, execRsgen, execRsgenl, execRsenc, execBsmode, 
      execBschk, execBsasm, execBspad, execFplace, execZzinit, execZzstep, execZzrun, execMaskap, 
      execPenalty, execMasksel, execFmtwr]
    exact command_ignored h _ _ _

/-- A command out of order raises SequenceError (R274, R304). -/
theorem exec_outOfOrder {i : Instr} {s : State} (he : s.err = 0) (hn : i ≠ .newreq) (ho : inOrder i s = false) :
    exec i s = .next (raised s 5 (encode i)) := by
  cases i with
  | newreq => exact absurd rfl hn
  | _ =>
    simp only [exec, execSetlvl, execMsgch, execDcwpush, execRddcw, execRdecw, execRdgen, execRdbit, execRdcell, 
      execRdfunc, execGfexp, execGflog, execGfadd, execGfmul, execRsgen, execRsgenl, execRsenc, execBsmode, 
      execBschk, execBsasm, execBspad, execFplace, execZzinit, execZzstep, execZzrun, execMaskap, 
      execPenalty, execMasksel, execFmtwr]
    refine command_outOfOrder he _ ?_ _
    rw [← ho]; simp [inOrder, needsOne, needsZero, needsState] <;> ac_rfl

end Sys2Proof.Machine
end

