-- ==== Sys2Proof/Laws/Grid.lean ====
section
/-! SUPPORT. The laws of the grid: a read after a write, the canonical form kept by every operation that writes the
grid, and that two canonical grids which read alike are the same grid. -/

namespace Sys2Proof.Machine

/-! ## Addresses (R14) -/

theorem inGrid_iff {r c : Nat} : inGrid r c = true ↔ r ≤ 20 ∧ c ≤ 20 := by simp [inGrid]

theorem cellAddress_lt {r c : Nat} (hr : r ≤ 20) (hc : c ≤ 20) : cellAddress r c < NCELLS := by
  simp only [cellAddress, SIZE, NCELLS]; omega

theorem cellAddress_inj {r c r' c' : Nat} (hc : c ≤ 20) (hc' : c' ≤ 20) :
    cellAddress r c = cellAddress r' c' ↔ r = r' ∧ c = c' := by
  simp only [cellAddress, SIZE]; omega

theorem cellAddress_div {r c : Nat} (hc : c ≤ 20) : cellAddress r c / SIZE = r := by
  simp only [cellAddress, SIZE]; omega

theorem cellAddress_mod {r c : Nat} (hc : c ≤ 20) : cellAddress r c % SIZE = c := by
  simp only [cellAddress, SIZE]; omega

/-! ## The sparse list -/

/-- The form of `Memory.wf` without the bound on the addresses: what `load` and `store` need. -/
def Grid.canonical (g : Grid) : Prop := (g.map (·.1)).Pairwise (· < ·) ∧ ∀ e ∈ g, e.2 ≠ .unset

theorem Memory.wf_iff {g : Grid} : Memory.wf g = true ↔ Grid.canonical g ∧ ∀ e ∈ g, e.1 < NCELLS := by
  simp only [Memory.wf, Grid.canonical, Bool.and_eq_true, decide_eq_true_eq, List.all_eq_true, bne_iff_ne, ne_eq]
  constructor
  · exact fun h => ⟨⟨h.1, fun e he => (h.2 e he).2⟩, fun e he => (h.2 e he).1⟩
  · exact fun h => ⟨h.1.1, fun e he => ⟨h.2 e he, h.1.2 e he⟩⟩

theorem Grid.canonical_cons {a : Nat} {m : GridModule} {g : Grid} :
    Grid.canonical ((a, m) :: g) ↔ (∀ e ∈ g, a < e.1) ∧ m ≠ .unset ∧ Grid.canonical g := by
  simp only [Grid.canonical, List.map_cons, List.pairwise_cons, List.mem_map, List.mem_cons]
  constructor
  · rintro ⟨⟨h1, h2⟩, h3⟩
    exact ⟨fun e he => h1 _ ⟨e, he, rfl⟩, h3 _ (.inl rfl), h2, fun e he => h3 e (.inr he)⟩
  · rintro ⟨h1, h2, h3, h4⟩
    refine ⟨⟨?_, h3⟩, ?_⟩
    · rintro _ ⟨e, he, rfl⟩; exact h1 e he
    · rintro e (rfl | he)
      · exact h2
      · exact h4 e he

/-- An address below every entry is not listed. -/
theorem Grid.load_below {g : Grid} {k : Nat} (h : ∀ e ∈ g, k < e.1) : Grid.load g k = .unset := by
  induction g with
  | nil => rfl
  | cons e g ih =>
    obtain ⟨a, m⟩ := e
    have ha : k < a := h (a, m) (by simp)
    simp [Grid.load, Nat.ne_of_gt ha, ih fun e he => h e (by simp [he])]

theorem Grid.load_store {g : Grid} (h : Grid.canonical g) (k : Nat) (m : GridModule) (j : Nat) :
    Grid.load (Grid.store g k m) j = if j = k then m else Grid.load g j := by
  induction g with
  | nil => by_cases hm : m = .unset <;> by_cases hj : k = j <;> simp [Grid.store, Grid.load, hm, hj, @eq_comm _ j k]
  | cons e g ih =>
    obtain ⟨a, v⟩ := e
    obtain ⟨hlt, -, hc⟩ := Grid.canonical_cons.mp h
    have below : k ≤ a → Grid.load g k = .unset := fun hk =>
      Grid.load_below fun e he => Nat.lt_of_le_of_lt hk (hlt e he)
    by_cases hm : m = .unset <;> by_cases hj : j = k <;> simp only [Grid.store] <;> split <;>
      (try split) <;> simp_all [Grid.load] <;> grind

/-- Writing a colour: the same law without the canonical form (a write of Unset is what needs the form). -/
theorem Grid.load_store_of_ne {g : Grid} (k : Nat) {m : GridModule} (hm : m ≠ .unset) (j : Nat) :
    Grid.load (Grid.store g k m) j = if j = k then m else Grid.load g j := by
  induction g with
  | nil => by_cases hj : k = j <;> simp [Grid.store, Grid.load, hm, hj, @eq_comm _ j k]
  | cons e g ih =>
    obtain ⟨a, v⟩ := e
    simp only [Grid.store, if_neg hm]
    split
    · by_cases hj : j = k <;> simp [Grid.load, hj, @eq_comm _ k j]
    · split
      · rename_i hk; subst hk
        by_cases hj : j = k <;> simp [Grid.load, hj, @eq_comm _ k j]
      · by_cases ha : a = j
        · subst ha; rename_i hk; simp [Grid.load, Ne.symm hk]
        · simp [Grid.load, ha, ih]

theorem Grid.mem_store {g : Grid} {k : Nat} {m : GridModule} {e : Nat × GridModule} (h : e ∈ Grid.store g k m) :
    e ∈ g ∨ (e = (k, m) ∧ m ≠ .unset) := by
  induction g with
  | nil =>
    by_cases hm : m = .unset <;> simp_all [Grid.store]
  | cons d g ih =>
    obtain ⟨a, v⟩ := d
    simp only [Grid.store] at h
    split at h
    · split at h <;> simp_all <;> tauto
    · split at h
      · split at h <;> simp_all <;> tauto
      · rcases List.mem_cons.mp h with rfl | h
        · exact .inl (by simp)
        · rcases ih h with h | h
          · exact .inl (by simp [h])
          · exact .inr h

theorem Grid.store_canonical {g : Grid} (h : Grid.canonical g) (k : Nat) (m : GridModule) :
    Grid.canonical (Grid.store g k m) := by
  induction g with
  | nil =>
    by_cases hm : m = .unset <;> simp [Grid.store, Grid.canonical, hm]
  | cons e g ih =>
    obtain ⟨a, v⟩ := e
    obtain ⟨hlt, hv, hc⟩ := Grid.canonical_cons.mp h
    simp only [Grid.store]
    split
    · split
      · exact h
      · refine Grid.canonical_cons.mpr ⟨?_, ‹_›, h⟩
        intro e he
        rcases List.mem_cons.mp he with rfl | he
        · assumption
        · exact Nat.lt_trans ‹k < a› (hlt e he)
    · split
      · rename_i _ hk; subst hk
        split
        · exact hc
        · exact Grid.canonical_cons.mpr ⟨hlt, ‹_›, hc⟩
      · refine Grid.canonical_cons.mpr ⟨?_, hv, ih hc⟩
        intro e he
        rcases Grid.mem_store he with he | ⟨rfl, -⟩
        · exact hlt e he
        · show a < k; omega

/-! ## Reading and writing cells (R62) -/

/-- A write of one cell of the grid keeps the canonical form. -/
theorem Grid.write_wf {g : Grid} (h : Memory.wf g = true) (r c : Nat) (v : GridModule) :
    Memory.wf (g.write r c v) = true := by
  obtain ⟨hc, hb⟩ := Memory.wf_iff.mp h
  unfold Grid.write; split
  · rename_i hin
    obtain ⟨hr, hcol⟩ := inGrid_iff.mp hin
    refine Memory.wf_iff.mpr ⟨Grid.store_canonical hc _ _, fun e he => ?_⟩
    rcases Grid.mem_store he with he | ⟨rfl, -⟩
    · exact hb e he
    · exact cellAddress_lt hr hcol
  · exact h

/-- A read after a write: the written cell reads as written, every other as before. -/
theorem Grid.read_write {g : Grid} (h : Memory.wf g = true) {r c r' c' : Nat} (hr : r ≤ 20) (hc : c ≤ 20)
    (hc' : c' ≤ 20) (v : GridModule) :
    (g.write r c v).read r' c' = if r' = r ∧ c' = c then v else g.read r' c' := by
  rw [Grid.write, if_pos (inGrid_iff.mpr ⟨hr, hc⟩), Grid.read, Grid.load_store (Memory.wf_iff.mp h).1]
  simp only [cellAddress_inj hc' hc, Grid.read]

/-- A read after a colour is written, whatever the list's form. -/
theorem Grid.read_write_of_ne {g : Grid} {r c r' c' : Nat} (hr : r ≤ 20) (hc : c ≤ 20) (hc' : c' ≤ 20)
    {v : GridModule} (hv : v ≠ .unset) :
    (g.write r c v).read r' c' = if r' = r ∧ c' = c then v else g.read r' c' := by
  rw [Grid.write, if_pos (inGrid_iff.mpr ⟨hr, hc⟩), Grid.read, Grid.load_store_of_ne _ hv]
  simp only [cellAddress_inj hc' hc, Grid.read]

/-- A bit is drawn as a colour, never as Unset (R200, R261). -/
theorem colourOf_ne_unset (b : Bool) : colourOf b ≠ .unset := by cases b <;> simp [colourOf]

/-- Every read of the empty grid is Unset (R41). -/
@[simp] theorem Grid.read_nil (r c : Nat) : Grid.read [] r c = .unset := rfl

@[simp] theorem Memory.wf_nil : Memory.wf [] = true := rfl

/-! ## Tabulated grids -/

theorem Grid.tabulate_wf (f : Nat → Nat → GridModule) : Memory.wf (Grid.tabulate f) = true := by
  have mem : ∀ e ∈ Grid.tabulate f, e.1 < NCELLS ∧ e.2 ≠ .unset := by
    intro e he
    simp only [Grid.tabulate, List.mem_filterMap, List.mem_range] at he
    obtain ⟨a, ha, hm⟩ := he
    split at hm
    · exact absurd hm (by simp)
    · obtain rfl := Option.some.inj hm; exact ⟨ha, ‹_›⟩
  refine Memory.wf_iff.mpr ⟨⟨?_, fun e he => (mem e he).2⟩, fun e he => (mem e he).1⟩
  rw [Grid.tabulate, List.pairwise_map, List.pairwise_filterMap]
  refine List.Pairwise.imp ?_ List.pairwise_lt_range
  intro a b hab x hx y hy
  split at hx
  · exact absurd hx (by simp)
  · split at hy
    · exact absurd hy (by simp)
    · obtain rfl := Option.some.inj hx; obtain rfl := Option.some.inj hy; exact hab

/-- Loading from a list cut out of a strictly rising list of addresses. -/
theorem Grid.load_filterMap (f : Nat → GridModule) (as : List Nat) (h : as.Nodup) (k : Nat) :
    Grid.load (as.filterMap fun a => match f a with | .unset => none | m => some (a, m)) k =
      if k ∈ as then f k else .unset := by
  induction as with
  | nil => rfl
  | cons a as ih =>
    obtain ⟨ha, hn⟩ := List.nodup_cons.mp h
    rw [List.filterMap_cons]
    by_cases hk : k = a
    · subst hk
      cases hf : f k <;> simp [Grid.load, ih hn, ha]
    · have hk' : a ≠ k := fun e => hk e.symm
      cases hf : f a <;> simp [Grid.load, ih hn, hk, hk']

/-- A tabulated grid reads as tabulated (R62, R208, R232). -/
theorem Grid.read_tabulate (f : Nat → Nat → GridModule) {r c : Nat} (hr : r ≤ 20) (hc : c ≤ 20) :
    (Grid.tabulate f).read r c = f r c := by
  have := Grid.load_filterMap (fun a => f (a / SIZE) (a % SIZE)) (List.range NCELLS) List.nodup_range
    (cellAddress r c)
  rw [if_pos (List.mem_range.mpr (cellAddress_lt hr hc)), cellAddress_div hc, cellAddress_mod hc] at this
  exact this

/-- Two canonical grids with the same cells are the same grid: equal memories are equal data. -/
theorem Grid.canonical_ext {g h : Grid} (hg : Grid.canonical g) (hh : Grid.canonical h)
    (heq : ∀ k, Grid.load g k = Grid.load h k) : g = h := by
  induction g generalizing h with
  | nil =>
    cases h with
    | nil => rfl
    | cons e h =>
      obtain ⟨a, m⟩ := e
      have := heq a
      simp [Grid.load] at this
      exact absurd this.symm (Grid.canonical_cons.mp hh).2.1
  | cons e g ih =>
    obtain ⟨a, m⟩ := e
    obtain ⟨hlt, hm, hc⟩ := Grid.canonical_cons.mp hg
    cases h with
    | nil =>
      have := heq a
      simp [Grid.load] at this
      exact absurd this hm
    | cons d h =>
      obtain ⟨b, n⟩ := d
      obtain ⟨hlt', hn, hc'⟩ := Grid.canonical_cons.mp hh
      have hab : a = b := by
        rcases Nat.lt_trichotomy a b with hab | hab | hab
        · have := heq a
          rw [Grid.load_below (g := (b, n) :: h)] at this
          · simp [Grid.load] at this; exact absurd this hm
          · intro e he
            rcases List.mem_cons.mp he with rfl | he
            · exact hab
            · exact Nat.lt_trans hab (hlt' e he)
        · exact hab
        · have := heq b
          rw [Grid.load_below (g := (a, m) :: g)] at this
          · simp [Grid.load] at this; exact absurd this.symm hn
          · intro e he
            rcases List.mem_cons.mp he with rfl | he
            · exact hab
            · exact Nat.lt_trans hab (hlt e he)
      subst hab
      have hmn : m = n := by have := heq a; simpa [Grid.load] using this
      subst hmn
      congr 1
      refine ih hc hc' fun k => ?_
      by_cases hk : a = k
      · subst hk
        rw [Grid.load_below hlt, Grid.load_below hlt']
      · have := heq k
        simpa [Grid.load, hk] using this

/-- Two grids in the canonical form that agree on the 441 cells are the same grid. -/
theorem Grid.ext_of_read {g h : Grid} (hg : Memory.wf g = true) (hh : Memory.wf h = true)
    (heq : ∀ r c, r ≤ 20 → c ≤ 20 → g.read r c = h.read r c) : g = h := by
  obtain ⟨hcg, hbg⟩ := Memory.wf_iff.mp hg
  obtain ⟨hch, hbh⟩ := Memory.wf_iff.mp hh
  have above : ∀ {g : Grid}, (∀ e ∈ g, e.1 < NCELLS) → ∀ k, NCELLS ≤ k → Grid.load g k = .unset := by
    intro g hb k hk
    induction g with
    | nil => rfl
    | cons e g ih =>
      obtain ⟨a, m⟩ := e
      have : a < NCELLS := hb (a, m) (by simp)
      rw [Grid.load, if_neg (by omega), ih fun e he => hb e (by simp [he])]
  refine Grid.canonical_ext hcg hch fun k => ?_
  by_cases hk : k < NCELLS
  · have := heq (k / 21) (k % 21) (by simp only [NCELLS] at hk; omega) (by omega)
    have hadr : cellAddress (k / 21) (k % 21) = k := by simp only [cellAddress, SIZE]; omega
    rwa [Grid.read, Grid.read, hadr] at this
  · rw [above hbg k (by omega), above hbh k (by omega)]

/-! ## The commands that write the grid keep the canonical form -/

theorem drawFunctionPatterns_wf (g : Grid) : Memory.wf (drawFunctionPatterns g) = true := Grid.tabulate_wf _

theorem read_drawFunctionPatterns (g : Grid) {r c : Nat} (hr : r ≤ 20) (hc : c ≤ 20) :
    (drawFunctionPatterns g).read r c = (drawnAt r c).getD (g.read r c) := Grid.read_tabulate _ hr hc

theorem applyMask_wf (id : BitVec 3) (g : Grid) : Memory.wf (applyMask id g) = true := Grid.tabulate_wf _

theorem read_applyMask (id : BitVec 3) (g : Grid) {r c : Nat} (hr : r ≤ 20) (hc : c ≤ 20) :
    (applyMask id g).read r c =
      if !isFunction r c && maskFormula id r c then flipModule (g.read r c) else g.read r c :=
  Grid.read_tabulate _ hr hc

theorem writeFormat_wf (c : Config) (l : Level) (id : BitVec 3) {g : Grid} (h : Memory.wf g = true) :
    Memory.wf (writeFormat c l id g) = true := by
  unfold writeFormat
  generalize (List.zip c.fmtPosA c.fmtPosB).zipIdx = ps
  induction ps generalizing g with
  | nil => exact h
  | cons p ps ih => exact ih (Grid.write_wf (Grid.write_wf h _ _ _) _ _ _)

theorem zzVisit_wf (bits : List Bool) (x : Walk) (h : Memory.wf x.g = true) :
    Memory.wf (zzVisit bits x).g = true := by
  unfold zzVisit; dsimp only
  split
  · split <;> exact Grid.write_wf h _ _ _
  · exact h

/-- The advance writes no cell (R204). -/
@[simp] theorem zzAdvance_g (x : Walk) : (zzAdvance x).g = x.g := by
  unfold zzAdvance; dsimp only
  split
  · rfl
  · split
    · rfl
    · split
      · rfl
      · split <;> rfl

theorem zzStep_wf (bits : List Bool) (x : Walk) (h : Memory.wf x.g = true) :
    Memory.wf (zzStep bits x).g = true := by rw [zzStep, zzAdvance_g]; exact zzVisit_wf bits x h

theorem zzRun_wf (bits : List Bool) (fuel : Nat) (x : Walk) (h : Memory.wf x.g = true) :
    Memory.wf (zzRun bits fuel x).g = true := by
  induction fuel generalizing x with
  | zero => exact h
  | succ n ih =>
    unfold zzRun; split
    · exact h
    · exact ih _ (zzStep_wf bits x h)

theorem select_wf (c : Config) (l : Level) (g : Grid) : Memory.wf (select c l g).g = true :=
  writeFormat_wf c l _ (applyMask_wf _ _)

/-- Flipping twice restores a module (R233). -/
@[simp] theorem flipModule_flipModule (m : GridModule) : flipModule (flipModule m) = m := by cases m <;> rfl

end Sys2Proof.Machine
end

