-- ==== Sys2Proof/Laws/PerInstr.lean ====
section
/-! SUPPORT. For every command: the row of the opcode map that selects its word, and that the row's operand slices
give the command back (30_encoding.md R81, R83). One lemma per constructor. -/

namespace Sys2Proof.Laws.Selects

/-- The word of a command is selected by a row of the opcode map which builds that command from it. -/
def Statement (i : Instr) : Prop := ∃ r ∈ opcodeMap, r.selects (encode i) = true ∧ r.build (encode i) = i

/-! ## The word of each format: the opcode and must-be-zero bits, and each operand slice (R81) -/

/-- The bits of an opcode above 24 zeros: the "match" column of R83. -/
theorem opcode_getLsbD (op : BitVec 8) (k : Nat) :
    (op ++ (0 : BitVec 24)).getLsbD k = if k < 24 then false else op.getLsbD (k - 24) := by
  rw [BitVec.getLsbD_append]; simp

theorem encodeB1_getLsbD (op : BitVec 8) (a : Byte) (k : Nat) :
    (encodeB1 op a).getLsbD k =
      if k < 8 then a.getLsbD k else if k < 24 then false else op.getLsbD (k - 24) := by
  have h : (encodeB1 op a).getLsbD k = ((op ++ (0 : BitVec 16)) ++ a).getLsbD k := rfl
  rw [h]; simp only [BitVec.getLsbD_append, BitVec.ofNat_eq_ofNat, BitVec.getLsbD_zero]
  repeat' split
  all_goals first | rfl | omega

theorem encodeB1_masked (op : BitVec 8) (a : Byte) :
    encodeB1 op a &&& Format.mask .b1 = op ++ (0 : BitVec 24) := by
  apply BitVec.eq_of_getLsbD_eq; intro k hk
  have hm : ∀ k < 32, (Format.mask .b1).getLsbD k = decide (8 ≤ k) := by decide
  rw [BitVec.getLsbD_and, encodeB1_getLsbD, opcode_getLsbD, hm k hk]
  repeat' split
  all_goals first | omega | (simp; done) | (simp; omega)

theorem byteField_encodeB1 (op : BitVec 8) (a : Byte) : byteField (encodeB1 op a) = a := by
  apply BitVec.eq_of_getLsbD_eq; intro k hk
  rw [byteField, BitVec.getLsbD_extractLsb', encodeB1_getLsbD]
  repeat' split
  all_goals first | omega | simp [hk]

theorem encodeB2_getLsbD (op : BitVec 8) (a : Byte) (b : Byte) (k : Nat) :
    (encodeB2 op a b).getLsbD k =
      if k < 8 then b.getLsbD k else if k < 16 then a.getLsbD (k - 8) else if k < 24 then false else op.getLsbD (k - 24) := by
  have h : (encodeB2 op a b).getLsbD k = (((op ++ (0 : BitVec 8)) ++ a) ++ b).getLsbD k := rfl
  rw [h]; simp only [BitVec.getLsbD_append, BitVec.ofNat_eq_ofNat, BitVec.getLsbD_zero]
  repeat' split
  all_goals first | rfl | omega

theorem encodeB2_masked (op : BitVec 8) (a : Byte) (b : Byte) :
    encodeB2 op a b &&& Format.mask .b2 = op ++ (0 : BitVec 24) := by
  apply BitVec.eq_of_getLsbD_eq; intro k hk
  have hm : ∀ k < 32, (Format.mask .b2).getLsbD k = decide (16 ≤ k) := by decide
  rw [BitVec.getLsbD_and, encodeB2_getLsbD, opcode_getLsbD, hm k hk]
  repeat' split
  all_goals first | omega | (simp; done) | (simp; omega)

theorem highByteField_encodeB2 (op : BitVec 8) (a : Byte) (b : Byte) : highByteField (encodeB2 op a b) = a := by
  apply BitVec.eq_of_getLsbD_eq; intro k hk
  rw [highByteField, BitVec.getLsbD_extractLsb', encodeB2_getLsbD]
  repeat' split
  all_goals first | omega | simp [hk]

theorem byteField_encodeB2 (op : BitVec 8) (a : Byte) (b : Byte) : byteField (encodeB2 op a b) = b := by
  apply BitVec.eq_of_getLsbD_eq; intro k hk
  rw [byteField, BitVec.getLsbD_extractLsb', encodeB2_getLsbD]
  repeat' split
  all_goals first | omega | simp [hk]

theorem encodeCP_getLsbD (op : BitVec 8) (cp : CodePoint) (k : Nat) :
    (encodeCP op cp).getLsbD k =
      if k < 21 then cp.getLsbD k else if k < 24 then false else op.getLsbD (k - 24) := by
  have h : (encodeCP op cp).getLsbD k = ((op ++ (0 : BitVec 3)) ++ cp).getLsbD k := rfl
  rw [h]; simp only [BitVec.getLsbD_append, BitVec.ofNat_eq_ofNat, BitVec.getLsbD_zero]
  repeat' split
  all_goals first | rfl | omega

theorem encodeCP_masked (op : BitVec 8) (cp : CodePoint) :
    encodeCP op cp &&& Format.mask .cp = op ++ (0 : BitVec 24) := by
  apply BitVec.eq_of_getLsbD_eq; intro k hk
  have hm : ∀ k < 32, (Format.mask .cp).getLsbD k = decide (21 ≤ k) := by decide
  rw [BitVec.getLsbD_and, encodeCP_getLsbD, opcode_getLsbD, hm k hk]
  repeat' split
  all_goals first | omega | (simp; done) | (simp; omega)

theorem codePointField_encodeCP (op : BitVec 8) (cp : CodePoint) : codePointField (encodeCP op cp) = cp := by
  apply BitVec.eq_of_getLsbD_eq; intro k hk
  rw [codePointField, BitVec.getLsbD_extractLsb', encodeCP_getLsbD]
  repeat' split
  all_goals first | omega | simp [hk]

theorem encodeRC_getLsbD (op : BitVec 8) (r : BitVec 5) (c : BitVec 5) (k : Nat) :
    (encodeRC op r c).getLsbD k =
      if k < 5 then c.getLsbD k else if k < 8 then false else if k < 13 then r.getLsbD (k - 8) else if k < 24 then false else op.getLsbD (k - 24) := by
  have h : (encodeRC op r c).getLsbD k = ((((op ++ (0 : BitVec 11)) ++ r) ++ (0 : BitVec 3)) ++ c).getLsbD k := rfl
  rw [h]; simp only [BitVec.getLsbD_append, BitVec.ofNat_eq_ofNat, BitVec.getLsbD_zero]
  repeat' split
  all_goals first | rfl | omega

theorem encodeRC_masked (op : BitVec 8) (r : BitVec 5) (c : BitVec 5) :
    encodeRC op r c &&& Format.mask .rc = op ++ (0 : BitVec 24) := by
  apply BitVec.eq_of_getLsbD_eq; intro k hk
  have hm : ∀ k < 32, (Format.mask .rc).getLsbD k = (decide (5 ≤ k ∧ k < 8) || decide (13 ≤ k)) := by decide
  rw [BitVec.getLsbD_and, encodeRC_getLsbD, opcode_getLsbD, hm k hk]
  repeat' split
  all_goals first | omega | (simp; done) | (simp; omega)

theorem rowField_encodeRC (op : BitVec 8) (r : BitVec 5) (c : BitVec 5) : rowField (encodeRC op r c) = r := by
  apply BitVec.eq_of_getLsbD_eq; intro k hk
  rw [rowField, BitVec.getLsbD_extractLsb', encodeRC_getLsbD]
  repeat' split
  all_goals first | omega | simp [hk]

theorem columnField_encodeRC (op : BitVec 8) (r : BitVec 5) (c : BitVec 5) : columnField (encodeRC op r c) = c := by
  apply BitVec.eq_of_getLsbD_eq; intro k hk
  rw [columnField, BitVec.getLsbD_extractLsb', encodeRC_getLsbD]
  repeat' split
  all_goals first | omega | simp [hk]

theorem encodeM3_getLsbD (op : BitVec 8) (id : BitVec 3) (k : Nat) :
    (encodeM3 op id).getLsbD k =
      if k < 3 then id.getLsbD k else if k < 24 then false else op.getLsbD (k - 24) := by
  have h : (encodeM3 op id).getLsbD k = ((op ++ (0 : BitVec 21)) ++ id).getLsbD k := rfl
  rw [h]; simp only [BitVec.getLsbD_append, BitVec.ofNat_eq_ofNat, BitVec.getLsbD_zero]
  repeat' split
  all_goals first | rfl | omega

theorem encodeM3_masked (op : BitVec 8) (id : BitVec 3) :
    encodeM3 op id &&& Format.mask .m3 = op ++ (0 : BitVec 24) := by
  apply BitVec.eq_of_getLsbD_eq; intro k hk
  have hm : ∀ k < 32, (Format.mask .m3).getLsbD k = decide (3 ≤ k) := by decide
  rw [BitVec.getLsbD_and, encodeM3_getLsbD, opcode_getLsbD, hm k hk]
  repeat' split
  all_goals first | omega | (simp; done) | (simp; omega)

theorem maskIdField_encodeM3 (op : BitVec 8) (id : BitVec 3) : maskIdField (encodeM3 op id) = id := by
  apply BitVec.eq_of_getLsbD_eq; intro k hk
  rw [maskIdField, BitVec.getLsbD_extractLsb', encodeM3_getLsbD]
  repeat' split
  all_goals first | omega | simp [hk]

/-! ## One lemma per command -/

theorem newreq : Statement .newreq := ⟨⟨0x01000000, .z, fun _ => .newreq⟩, by simp [opcodeMap, hostRows, fieldRows, builderRows, extensionRows], by decide, rfl⟩

theorem setlvl (a : Byte) : Statement (.setlvl a) :=
  ⟨⟨0x02000000, .b1, fun w => .setlvl (byteField w)⟩, by simp [opcodeMap, hostRows, fieldRows, builderRows, extensionRows],
    by simp [Row.selects, encode, encodeB1_masked], by simp [encode, byteField_encodeB1]⟩

theorem msgch (cp : CodePoint) : Statement (.msgch cp) :=
  ⟨⟨0x03000000, .cp, fun w => .msgch (codePointField w)⟩, by simp [opcodeMap, hostRows, fieldRows, builderRows, extensionRows],
    by simp [Row.selects, encode, encodeCP_masked], by simp [encode, codePointField_encodeCP]⟩

theorem dcwpush (a : Byte) : Statement (.dcwpush a) :=
  ⟨⟨0x04000000, .b1, fun w => .dcwpush (byteField w)⟩, by simp [opcodeMap, hostRows, fieldRows, builderRows, extensionRows],
    by simp [Row.selects, encode, encodeB1_masked], by simp [encode, byteField_encodeB1]⟩

theorem rddcw (a : Byte) : Statement (.rddcw a) :=
  ⟨⟨0x08000000, .b1, fun w => .rddcw (byteField w)⟩, by simp [opcodeMap, hostRows, fieldRows, builderRows, extensionRows],
    by simp [Row.selects, encode, encodeB1_masked], by simp [encode, byteField_encodeB1]⟩

theorem rdecw (a : Byte) : Statement (.rdecw a) :=
  ⟨⟨0x09000000, .b1, fun w => .rdecw (byteField w)⟩, by simp [opcodeMap, hostRows, fieldRows, builderRows, extensionRows],
    by simp [Row.selects, encode, encodeB1_masked], by simp [encode, byteField_encodeB1]⟩

theorem rdgen (a : Byte) : Statement (.rdgen a) :=
  ⟨⟨0x0A000000, .b1, fun w => .rdgen (byteField w)⟩, by simp [opcodeMap, hostRows, fieldRows, builderRows, extensionRows],
    by simp [Row.selects, encode, encodeB1_masked], by simp [encode, byteField_encodeB1]⟩

theorem rdbit (a : Byte) : Statement (.rdbit a) :=
  ⟨⟨0x0B000000, .b1, fun w => .rdbit (byteField w)⟩, by simp [opcodeMap, hostRows, fieldRows, builderRows, extensionRows],
    by simp [Row.selects, encode, encodeB1_masked], by simp [encode, byteField_encodeB1]⟩

theorem rdcell (r c : BitVec 5) : Statement (.rdcell r c) :=
  ⟨⟨0x0C000000, .rc, fun w => .rdcell (rowField w) (columnField w)⟩, by simp [opcodeMap, hostRows, fieldRows, builderRows, extensionRows],
    by simp [Row.selects, encode, encodeRC_masked], by simp [encode, rowField_encodeRC, columnField_encodeRC]⟩

theorem rdfunc (r c : BitVec 5) : Statement (.rdfunc r c) :=
  ⟨⟨0x0D000000, .rc, fun w => .rdfunc (rowField w) (columnField w)⟩, by simp [opcodeMap, hostRows, fieldRows, builderRows, extensionRows],
    by simp [Row.selects, encode, encodeRC_masked], by simp [encode, rowField_encodeRC, columnField_encodeRC]⟩

theorem gfexp (a : Byte) : Statement (.gfexp a) :=
  ⟨⟨0x10000000, .b1, fun w => .gfexp (byteField w)⟩, by simp [opcodeMap, hostRows, fieldRows, builderRows, extensionRows],
    by simp [Row.selects, encode, encodeB1_masked], by simp [encode, byteField_encodeB1]⟩

theorem gflog (a : Byte) : Statement (.gflog a) :=
  ⟨⟨0x11000000, .b1, fun w => .gflog (byteField w)⟩, by simp [opcodeMap, hostRows, fieldRows, builderRows, extensionRows],
    by simp [Row.selects, encode, encodeB1_masked], by simp [encode, byteField_encodeB1]⟩

theorem gfadd (a b : Byte) : Statement (.gfadd a b) :=
  ⟨⟨0x12000000, .b2, fun w => .gfadd (highByteField w) (byteField w)⟩, by simp [opcodeMap, hostRows, fieldRows, builderRows, extensionRows],
    by simp [Row.selects, encode, encodeB2_masked], by simp [encode, highByteField_encodeB2, byteField_encodeB2]⟩

theorem gfmul (a b : Byte) : Statement (.gfmul a b) :=
  ⟨⟨0x13000000, .b2, fun w => .gfmul (highByteField w) (byteField w)⟩, by simp [opcodeMap, hostRows, fieldRows, builderRows, extensionRows],
    by simp [Row.selects, encode, encodeB2_masked], by simp [encode, highByteField_encodeB2, byteField_encodeB2]⟩

theorem rsgen (a : Byte) : Statement (.rsgen a) :=
  ⟨⟨0x20000000, .b1, fun w => .rsgen (byteField w)⟩, by simp [opcodeMap, hostRows, fieldRows, builderRows, extensionRows],
    by simp [Row.selects, encode, encodeB1_masked], by simp [encode, byteField_encodeB1]⟩

theorem rsgenl : Statement .rsgenl := ⟨⟨0x21000000, .z, fun _ => .rsgenl⟩, by simp [opcodeMap, hostRows, fieldRows, builderRows, extensionRows], by decide, rfl⟩

theorem rsenc : Statement .rsenc := ⟨⟨0x22000000, .z, fun _ => .rsenc⟩, by simp [opcodeMap, hostRows, fieldRows, builderRows, extensionRows], by decide, rfl⟩

theorem bsmode : Statement .bsmode := ⟨⟨0x30000000, .z, fun _ => .bsmode⟩, by simp [opcodeMap, hostRows, fieldRows, builderRows, extensionRows], by decide, rfl⟩

theorem bschk : Statement .bschk := ⟨⟨0x31000000, .z, fun _ => .bschk⟩, by simp [opcodeMap, hostRows, fieldRows, builderRows, extensionRows], by decide, rfl⟩

theorem bsasm : Statement .bsasm := ⟨⟨0x32000000, .z, fun _ => .bsasm⟩, by simp [opcodeMap, hostRows, fieldRows, builderRows, extensionRows], by decide, rfl⟩

theorem bspad : Statement .bspad := ⟨⟨0x33000000, .z, fun _ => .bspad⟩, by simp [opcodeMap, hostRows, fieldRows, builderRows, extensionRows], by decide, rfl⟩

theorem fplace : Statement .fplace := ⟨⟨0x40000000, .z, fun _ => .fplace⟩, by simp [opcodeMap, hostRows, fieldRows, builderRows, extensionRows], by decide, rfl⟩

theorem zzinit : Statement .zzinit := ⟨⟨0x41000000, .z, fun _ => .zzinit⟩, by simp [opcodeMap, hostRows, fieldRows, builderRows, extensionRows], by decide, rfl⟩

theorem zzstep : Statement .zzstep := ⟨⟨0x42000000, .z, fun _ => .zzstep⟩, by simp [opcodeMap, hostRows, fieldRows, builderRows, extensionRows], by decide, rfl⟩

theorem zzrun : Statement .zzrun := ⟨⟨0x43000000, .z, fun _ => .zzrun⟩, by simp [opcodeMap, hostRows, fieldRows, builderRows, extensionRows], by decide, rfl⟩

theorem maskap (id : BitVec 3) : Statement (.maskap id) :=
  ⟨⟨0x50000000, .m3, fun w => .maskap (maskIdField w)⟩, by simp [opcodeMap, hostRows, fieldRows, builderRows, extensionRows],
    by simp [Row.selects, encode, encodeM3_masked], by simp [encode, maskIdField_encodeM3]⟩

theorem penalty : Statement .penalty := ⟨⟨0x51000000, .z, fun _ => .penalty⟩, by simp [opcodeMap, hostRows, fieldRows, builderRows, extensionRows], by decide, rfl⟩

theorem masksel : Statement .masksel := ⟨⟨0x52000000, .z, fun _ => .masksel⟩, by simp [opcodeMap, hostRows, fieldRows, builderRows, extensionRows], by decide, rfl⟩

theorem fmtwr (id : BitVec 3) : Statement (.fmtwr id) :=
  ⟨⟨0x58000000, .m3, fun w => .fmtwr (maskIdField w)⟩, by simp [opcodeMap, hostRows, fieldRows, builderRows, extensionRows],
    by simp [Row.selects, encode, encodeM3_masked], by simp [encode, maskIdField_encodeM3]⟩

end Sys2Proof.Laws.Selects
end

