-- ==== Sys2Proof/Laws/Walk.lean ====
section
/-! SUPPORT. The zig-zag writer: what one visit and one advance do, case by case, and that the cursor stays on its
path (44_matrix.md R203, R204). -/

namespace Sys2Proof.Machine

/-! ## The visit (R203, R206) -/

/-- A function cell and a cell already set are left as they are, and no bit is consumed. -/
theorem zzVisit_skips {bits : List Bool} {x : Walk}
    (h : isFunction x.cur.zr.toNat x.cur.column = true ∨ x.g.read x.cur.zr.toNat x.cur.column ≠ .unset) :
    zzVisit bits x = x := by
  unfold zzVisit
  rcases h with h | h <;> simp [h]

/-- An Unset data cell takes the next bit. -/
theorem zzVisit_takes {bits : List Bool} {x : Walk} {b : Bool}
    (hf : isFunction x.cur.zr.toNat x.cur.column = false) (hu : x.g.read x.cur.zr.toNat x.cur.column = .unset)
    (hb : bits[x.cur.zn.toNat]? = some b) :
    zzVisit bits x = { x with
      g := x.g.write x.cur.zr.toNat x.cur.column (colourOf b), cur := { x.cur with zn := x.cur.zn + 1 } } := by
  simp [zzVisit, hf, hu, hb]

/-- Past the end of the bit string an Unset data cell becomes Light. -/
theorem zzVisit_remainder {bits : List Bool} {x : Walk}
    (hf : isFunction x.cur.zr.toNat x.cur.column = false) (hu : x.g.read x.cur.zr.toNat x.cur.column = .unset)
    (hb : bits[x.cur.zn.toNat]? = none) :
    zzVisit bits x = { x with g := x.g.write x.cur.zr.toNat x.cur.column .light } := by
  simp [zzVisit, hf, hu, hb]

/-- The visit moves nothing: ZC, ZR, ZK, ZUP and ZST are as before. -/
theorem zzVisit_place (bits : List Bool) (x : Walk) :
    (zzVisit bits x).zst = x.zst ∧ (zzVisit bits x).cur = { x.cur with zn := (zzVisit bits x).cur.zn } := by
  unfold zzVisit; dsimp only
  split
  · split <;> exact ⟨rfl, rfl⟩
  · exact ⟨rfl, rfl⟩

/-! ## The advance (R204) -/

/-- From the right cell to the left cell of the row. -/
theorem zzAdvance_left {x : Walk} (h : x.cur.zk = false) :
    zzAdvance x = { x with cur := { x.cur with zk := true } } := by simp [zzAdvance, h]

/-- To the row above. -/
theorem zzAdvance_up {x : Walk} (hk : x.cur.zk = true) (hu : x.cur.zup = true) (hr : 0 < x.cur.zr.toNat) :
    zzAdvance x = { x with cur := { x.cur with zk := false, zr := x.cur.zr - 1 } } := by simp [zzAdvance, hk, hu, hr]

/-- To the row below. -/
theorem zzAdvance_down {x : Walk} (hk : x.cur.zk = true) (hu : x.cur.zup = false) (hr : x.cur.zr.toNat < 20) :
    zzAdvance x = { x with cur := { x.cur with zk := false, zr := x.cur.zr + 1 } } := by
  simp [zzAdvance, hk, hu, hr]

/-- The walk is at a vertical boundary of its strip. -/
def Cursor.atBoundary (k : Cursor) : Prop :=
  k.zk = true ∧ (k.zup = true ∧ k.zr.toNat = 0 ∨ k.zup = false ∧ 20 ≤ k.zr.toNat)

/-- Column 0 is exhausted: done. -/
theorem zzAdvance_done {x : Walk} (h : x.cur.atBoundary) (hc : x.cur.zc = 1) :
    zzAdvance x = { x with zst := .done, cur := { x.cur with zk := false, zup := !x.cur.zup } } := by
  obtain ⟨hk, ⟨hu, hr⟩ | ⟨hu, hr⟩⟩ := h
  · simp [zzAdvance, hk, hu, hr, hc]
  · simp [zzAdvance, hk, hu, hc, Nat.not_lt.mpr hr]

/-- To the next strip, turning round. -/
theorem zzAdvance_strip {x : Walk} (h : x.cur.atBoundary) (hc : x.cur.zc ≠ 1) :
    zzAdvance x = { x with cur := { x.cur with
      zk := false, zup := !x.cur.zup, zc := if x.cur.zc - 2 = 6 then 5 else x.cur.zc - 2 } } := by
  have hc' : ¬ x.cur.zc = 1#5 := hc
  obtain ⟨hk, ⟨hu, hr⟩ | ⟨hu, hr⟩⟩ := h
  · simp [zzAdvance, hk, hu, hr, hc']
  · simp [zzAdvance, hk, hu, hc', Nat.not_lt.mpr hr]

/-- The cursor stays on its path. -/
theorem zzAdvance_onPath {x : Walk} (h : x.cur.onPath = true) : (zzAdvance x).cur.onPath = true := by
  obtain ⟨hr, hc⟩ : x.cur.zr.toNat ≤ 20 ∧ stripColumns.contains x.cur.zc = true := by
    simpa [Cursor.onPath] using h
  have next : ∀ zc : BitVec 5, stripColumns.contains zc = true → zc ≠ 1 →
      stripColumns.contains (if zc - 2 = 6 then 5 else zc - 2) = true := by decide
  cases hk : x.cur.zk with
  | false => rw [zzAdvance_left hk]; exact h
  | true =>
    cases hu : x.cur.zup with
    | true =>
      by_cases h0 : 0 < x.cur.zr.toNat
      · rw [zzAdvance_up hk hu h0]
        simp only [Cursor.onPath, Bool.and_eq_true, decide_eq_true_eq]
        exact ⟨by bv_omega, hc⟩
      · by_cases h1 : x.cur.zc = 1
        · rw [zzAdvance_done ⟨hk, .inl ⟨hu, by omega⟩⟩ h1]; exact h
        · rw [zzAdvance_strip ⟨hk, .inl ⟨hu, by omega⟩⟩ h1]
          simp only [Cursor.onPath, Bool.and_eq_true, decide_eq_true_eq]
          exact ⟨hr, next _ hc h1⟩
    | false =>
      by_cases h0 : x.cur.zr.toNat < 20
      · rw [zzAdvance_down hk hu h0]
        simp only [Cursor.onPath, Bool.and_eq_true, decide_eq_true_eq]
        exact ⟨by bv_omega, hc⟩
      · by_cases h1 : x.cur.zc = 1
        · rw [zzAdvance_done ⟨hk, .inr ⟨hu, by omega⟩⟩ h1]; exact h
        · rw [zzAdvance_strip ⟨hk, .inr ⟨hu, by omega⟩⟩ h1]
          simp only [Cursor.onPath, Bool.and_eq_true, decide_eq_true_eq]
          exact ⟨hr, next _ hc h1⟩

theorem zzStep_onPath (bits : List Bool) {x : Walk} (h : x.cur.onPath = true) :
    (zzStep bits x).cur.onPath = true := by
  refine zzAdvance_onPath ?_
  rw [(zzVisit_place bits x).2]; exact h

end Sys2Proof.Machine
end

