-- ==== Sys2Proof/Tests/Slice0.lean ====
section
/-! SUPPORT. The model's own tests: ill-formed terms each check refuses, words written out from the spec's encodings,
and at most two one-step tests per command. Every expected value is the spec's (the examples of the rules and the
vectors of 95_test_vectors.md). After them stand the witnesses of the statements' hypotheses, one theorem for each
statement that has any. -/

namespace Sys2Proof.Tests

-- One test at a time: each waits for the kernel, and a thread for each would not fit in memory.
set_option Elab.async false

open Sys2Proof.Machine Sys2Proof.Safety

/-! ## Helpers -/

/-- The next state, when the model answers one. -/
def got (o : Result) : Option State :=
  match o with
  | .next t => some t
  | _ => none

/-- RES, STATUS and ERR after a command. -/
def shown (o : Result) : Option (Nat × Nat × Nat) :=
  (got o).map fun t => (t.res.toNat, t.status.toNat, t.err.toNat)

/-- "HELLO WORLD". -/
def hello : List CodePoint := [0x48, 0x45, 0x4C, 0x4C, 0x4F, 0x20, 0x57, 0x4F, 0x52, 0x4C, 0x44]

/-- A state with a message and a level, before BSMODE. -/
def told (l : Level) (msg : List CodePoint) : State :=
  { State.reset with
    level := some l, msg := msg, msglen := BitVec.ofNat 8 msg.length, status := 0x0001 }

/-- The same after BSMODE. -/
def moded (l : Level) (m : Mode) (msg : List CodePoint) : State :=
  { told l msg with mode := some m, status := 0x0003 }

/-- "HELLO WORLD" at level Q after BSCHK. -/
def checked : State := { moded .Q .alphanumeric hello with reqbits := some 74, status := 0x0007 }

/-- The bits of "HELLO WORLD" before padding: mode, count, five pairs, one single (R176). -/
def helloBits : List Bool :=
  ("0010" ++ "000001011" ++ "01100001011" ++ "01111000110" ++ "10001011100" ++ "10110111000" ++ "10011010100" ++
    "001101").toList.map (· == '1')

/-- "HELLO WORLD" at level Q after BSASM. -/
def assembled : State := { checked with bits := helloBits, bitlen := some 74, status := 0x000F }

/-- The codewords of "HELLO WORLD" at level Q (V-BS1, V-RS8). -/
def helloData : List Byte := [0x20, 0x5B, 0x0B, 0x78, 0xD1, 0x72, 0xDC, 0x4D, 0x43, 0x40, 0xEC, 0x11, 0xEC]
def helloEc : List Byte := [0xA8, 0x48, 0x16, 0x52, 0xD9, 0x36, 0x9C, 0x00, 0x2E, 0x0F, 0xB4, 0x7A, 0x10]

/-- A state on the raw path with some data codewords and the generator of some degree. -/
def raw (data : List Byte) (n : Nat) : State :=
  { State.reset with
    dcw := data, dlen := BitVec.ofNat 5 data.length, gen := some (rsGen 255 n), gendeg := some (BitVec.ofNat 5 n)
    status := 0x0830 }

/-- Patterns drawn and "HELLO WORLD" encoded at level Q. -/
def drawn : State :=
  { State.reset with
    level := some .Q, dcw := helloData, dlen := 13, ecw := helloEc, elen := 13, g := drawFunctionPatterns []
    status := 0x00D1 }

/-- The writer at the start. -/
def armed : State := { drawn with zst := .run, cursor := some Cursor.start }

/-- The placement of "HELLO WORLD" at level Q, as far as the four cells of the bottom-right corner (V-MX4). -/
def placed : State :=
  { drawn with
    g := [(418, .light), (419, .dark), (439, .light), (440, .light)], zst := .done
    cursor := some { zc := 1, zr := 20, zk := false, zup := true, zn := 208 }, status := 0x01D1 }

/-- One data and one EC codeword, and the cursor after all their 16 bits. -/
def exhausted : State :=
  { armed with
    dcw := [0x20], dlen := 1, ecw := [0xA8], elen := 1
    cursor := some { zc := 20, zr := 12, zk := false, zup := true, zn := 16 } }

/-- A line of cells as 95_test_vectors.md draws it. -/
def lineOf (text : String) : List GridModule := text.toList.map pictured

/-! ## Well-formedness: each check refuses an ill-formed term -/

theorem test_wf_operands :
    (Instr.setlvl 0x58).wellFormed defaultConfig = false ∧ (Instr.msgch 0x110000).wellFormed defaultConfig = false ∧
    (Instr.rdcell 21 0).wellFormed defaultConfig = false ∧ (Instr.rdcell 0 21).wellFormed defaultConfig = false ∧
    (Instr.rdfunc 21 0).wellFormed defaultConfig = false ∧ (Instr.rdfunc 0 31).wellFormed defaultConfig = false ∧
    (Instr.rsgen 0).wellFormed defaultConfig = false ∧ (Instr.rsgen 26).wellFormed defaultConfig = false ∧
    (Instr.gflog 0).wellFormed defaultConfig = false := by decide

theorem test_wf_accepts :
    (Instr.setlvl 0x51).wellFormed defaultConfig = true ∧ (Instr.msgch 0x10FFFF).wellFormed defaultConfig = true ∧
    (Instr.rdcell 20 20).wellFormed defaultConfig = true ∧ (Instr.rsgen 25).wellFormed defaultConfig = true ∧
    (Instr.gflog 1).wellFormed defaultConfig = true := by decide

theorem test_config_default : defaultConfig.wf = true := by decide +kernel

theorem test_config_alnum :
    { defaultConfig with alnum := defaultConfig.alnum.tail }.alnumWf = false ∧
    { defaultConfig with alnum := (0x61, 0) :: defaultConfig.alnum.tail }.alnumWf = false ∧
    { defaultConfig with alnum := (0x30, 45) :: defaultConfig.alnum.tail }.alnumWf = false ∧
    { defaultConfig with alnum := (0x30, 1) :: defaultConfig.alnum.tail }.alnumWf = false := by decide +kernel

theorem test_config_budget :
    { defaultConfig with cap := { l := 19, m := 16, q := 13, h := 10 } }.budgetWf = false ∧
    { defaultConfig with cap := { l := 26, m := 16, q := 13, h := 9 } }.budgetWf = false ∧
    { defaultConfig with nec := { l := 0, m := 10, q := 13, h := 17 } }.budgetWf = false := by decide +kernel

theorem test_config_fmtpos :
    { defaultConfig with fmtPosA := defaultConfig.fmtPosA.tail }.fmtPosWf = false ∧
    { defaultConfig with fmtPosA := (13, 8) :: defaultConfig.fmtPosA.tail }.fmtPosWf = false ∧
    { defaultConfig with fmtPosA := (20, 8) :: defaultConfig.fmtPosA.tail }.fmtPosWf = false := by decide +kernel

theorem test_config_params :
    { defaultConfig with msgMax := 0 }.paramsWf = false ∧ { defaultConfig with msgMax := 256 }.paramsWf = false ∧
    { defaultConfig with cpMax := 2 ^ 21 }.paramsWf = false ∧ { defaultConfig with log1 := 1 }.paramsWf = false ∧
    { defaultConfig with n3fn := [([], 2 ^ 20)] }.paramsWf = false := by decide +kernel

/-! ## Decoding: the word of each command written out from R81 and R83 -/

theorem test_decode_host :
    decode 0x01000000 = some .newreq ∧ decode 0x02000051 = some (.setlvl 0x51) ∧
    decode 0x03000048 = some (.msgch 0x48) ∧ decode 0x031FFFFF = some (.msgch 0x1FFFFF) ∧
    decode 0x04000020 = some (.dcwpush 0x20) ∧ decode 0x0800000C = some (.rddcw 12) ∧
    decode 0x09000001 = some (.rdecw 1) ∧ decode 0x0A000007 = some (.rdgen 7) ∧
    decode 0x0B00004A = some (.rdbit 74) ∧ decode 0x0C000D08 = some (.rdcell 13 8) ∧
    decode 0x0C001515 = some (.rdcell 21 21) ∧ decode 0x0D00080D = some (.rdfunc 8 13) := by decide

theorem test_decode_field :
    decode 0x10000019 = some (.gfexp 25) ∧ decode 0x1100001D = some (.gflog 29) ∧
    decode 0x120053CA = some (.gfadd 0x53 0xCA) ∧ decode 0x13000280 = some (.gfmul 2 128) ∧
    decode 0x20000007 = some (.rsgen 7) ∧ decode 0x21000000 = some .rsgenl ∧ decode 0x22000000 = some .rsenc := by
  decide

theorem test_decode_builder :
    decode 0x30000000 = some .bsmode ∧ decode 0x31000000 = some .bschk ∧ decode 0x32000000 = some .bsasm ∧
    decode 0x33000000 = some .bspad ∧ decode 0x40000000 = some .fplace ∧ decode 0x41000000 = some .zzinit ∧
    decode 0x42000000 = some .zzstep ∧ decode 0x43000000 = some .zzrun := by decide

theorem test_decode_extension :
    decode 0x50000007 = some (.maskap 7) ∧ decode 0x51000000 = some .penalty ∧ decode 0x52000000 = some .masksel ∧
    decode 0x58000006 = some (.fmtwr 6) := by decide

theorem test_decode_illegal :
    decode 0x00000000 = none ∧ decode 0xFFFFFFFF = none ∧ decode 0x03200000 = none ∧ decode 0x0C002000 = none ∧
    decode 0x0C000020 = none ∧ decode 0x13010203 = none ∧ decode 0x21000001 = none ∧ decode 0x50000008 = none ∧
    decode 0x59000000 = none := by decide

/-- The host's two entry points: the table's numbering, and the word as the next input. -/
theorem test_table_word :
    decodeTableWord 32 0x02000051 = some (.setlvl 0x51) ∧ decodeTableWord 32 0x21000001 = none ∧
    (got (step (State.reset.withFetchWord 32 0x02000051))).map (·.level) = some (some .Q) := by decide

/-! ## Host and system commands -/

theorem test_newreq : got (execNewreq (State.reset.raise .capacityExceededError 0x31000000)) = some State.reset := by
  decide

theorem test_setlvl : (got (execSetlvl 0x51 State.reset)).map (fun t => (t.level, t.status)) = some (some .Q, 0x0001) := by
  decide

theorem test_setlvl_invalid : (got (execSetlvl 0x58 State.reset)).map (fun t => (t.err, t.errcmd, t.status)) =
    some (1, 0x02000058, 0x8000) := by decide

theorem test_msgch : (got (execMsgch 0x48 State.reset)).map (fun t => (t.msg, t.msglen)) = some ([0x48], 1) := by decide

theorem test_msgch_range : shown (execMsgch 0x1FFFFF State.reset) = some (0, 0x8000, 6) := by decide

theorem test_dcwpush : (got (execDcwpush 0x20 State.reset)).map (fun t => (t.dcw, t.dlen, t.status)) =
    some ([0x20], 1, 0x0810) := by decide

/-- V-RS14. -/
theorem test_dcwpush_overflow : shown (execDcwpush 0 (raw (List.replicate 25 0) 1)) = some (0, 0x8830, 7) := by
  decide +kernel

theorem test_rddcw : shown (execRddcw 12 placed) = some (0xEC, 0x01D1, 0) := by decide +kernel

theorem test_rddcw_range : shown (execRddcw 13 placed) = some (0, 0x81D1, 6) := by decide +kernel

theorem test_rdecw : shown (execRdecw 0 placed) = some (0xA8, 0x01D1, 0) := by decide +kernel

theorem test_rdgen : shown (execRdgen 7 (raw [] 7)) = some (117, 0x0830, 0) := by decide +kernel

theorem test_rdgen_range : shown (execRdgen 8 (raw [] 7)) = some (0, 0x8830, 6) := by decide +kernel

theorem test_rdbit : shown (execRdbit 2 assembled) = some (1, 0x000F, 0) := by decide +kernel

theorem test_rdbit_range : shown (execRdbit 74 assembled) = some (0, 0x800F, 6) := by decide +kernel

theorem test_rdcell : shown (execRdcell 13 8 drawn) = some (2, 0x00D1, 0) := by decide +kernel

theorem test_rdcell_unset : shown (execRdcell 0 8 drawn) = some (0, 0x00D1, 0) := by decide +kernel

theorem test_rdfunc : shown (execRdfunc 8 13 State.reset) = some (1, 0, 0) := by decide

theorem test_rdfunc_data : shown (execRdfunc 8 12 State.reset) = some (0, 0, 0) := by decide

/-! ## Field and Reed-Solomon commands -/

/-- V-GF2, V-GF3. -/
theorem test_gfexp : shown (execGfexp 25 State.reset) = some (3, 0, 0) ∧
    shown (execGfexp 255 State.reset) = some (1, 0, 0) := by decide +kernel

/-- V-GF4, V-GF5. -/
theorem test_gflog : shown (execGflog 29 State.reset) = some (8, 0, 0) ∧
    shown (execGflog 1 State.reset) = some (255, 0, 0) := by decide +kernel

/-- V-GF6. -/
theorem test_gflog_zero : shown (execGflog 0 State.reset) = some (0, 0x8000, 8) := by decide +kernel

/-- V-GF7. -/
theorem test_gfadd : shown (execGfadd 0x53 0xCA State.reset) = some (0x99, 0, 0) := by decide

/-- V-GF10: the sum of logarithms is reduced mod 255, not 256. -/
theorem test_gfmul : shown (execGfmul 255 255 State.reset) = some (226, 0, 0) := by decide +kernel

/-- V-GF13, V-GF14. -/
theorem test_gfmul_poly : shown (execGfmul 0x57 0x83 State.reset) = some (0x31, 0, 0) ∧
    shown (execGfmul 0 5 State.reset) = some (0, 0, 0) := by decide +kernel

theorem test_rsgen : (got (execRsgen 7 State.reset)).map (fun t => (t.gen, t.gendeg, t.status)) =
    some (some [1, 127, 122, 154, 164, 11, 68, 117], some 7, 0x0020) := by decide +kernel

/-- V-RS12. -/
theorem test_rsgen_range : shown (execRsgen 26 State.reset) = some (0, 0x8000, 6) := by decide

theorem test_rsgenl : (got (execRsgenl (told .Q []))).map (fun t => (t.gen, t.gendeg)) =
    some (some [1, 137, 73, 227, 17, 177, 17, 52, 13, 46, 43, 83, 132, 120], some 13) := by decide +kernel

/-- V-RS5. -/
theorem test_rsenc : (got (execRsenc (raw [0x10, 0x20, 0x0C, 0x56, 0x61, 0x80, 0xEC, 0x11, 0xEC, 0x11, 0xEC, 0x11,
      0xEC, 0x11, 0xEC, 0x11] 10))).map (fun t => (t.ecw, t.elen, t.status)) =
    some ([0xA5, 0x24, 0xD4, 0xC1, 0xED, 0x36, 0xC7, 0x87, 0x2C, 0x55], 10, 0x0870) := by decide +kernel

/-- V-RS13. -/
theorem test_rsenc_range : shown (execRsenc (raw (List.replicate 25 0) 2)) = some (0, 0x8830, 6) := by decide +kernel

/-! ## Bitstream commands -/

theorem test_bsmode : shown (execBsmode (told .Q hello)) = some (0, 0x0003, 0) ∧
    shown (execBsmode (told .H [0x68, 0x65, 0x6C, 0x6C, 0x6F])) = some (1, 0x0003, 0) := by decide +kernel

/-- V-BS14. -/
theorem test_bsmode_unsupported : shown (execBsmode (told .Q [0x41, 0x20AC])) = some (0, 0x8001, 2) := by
  decide +kernel

theorem test_bschk : shown (execBschk (moded .Q .alphanumeric hello)) = some (74, 0x0007, 0) := by decide +kernel

/-- V-BS13. -/
theorem test_bschk_exceeded : shown (execBschk (moded .H .alphanumeric hello)) = some (0, 0x8003, 3) := by
  decide +kernel

theorem test_bsasm : (got (execBsasm checked)).map (fun t => (t.bits, t.bitlen, t.status)) =
    some (helloBits, some 74, 0x000F) := by decide +kernel

theorem test_bspad : (got (execBspad assembled)).map (fun t => (t.dcw, t.dlen, t.bitlen, t.status)) =
    some (helloData, 13, some 104, 0x101F) := by decide +kernel

/-! ## Matrix commands -/

/-- The example of R208. -/
theorem test_fplace : (got (execFplace State.reset)).map (fun t =>
      [t.g.read 0 0, t.g.read 1 1, t.g.read 3 3, t.g.read 7 7, t.g.read 6 8, t.g.read 6 9, t.g.read 13 8,
        t.g.read 8 8, t.g.read 9 9]) =
    some [.dark, .light, .dark, .light, .dark, .light, .dark, .unset, .unset] := by decide +kernel

theorem test_zzinit : (got (execZzinit drawn)).map (fun t => (t.cursor, t.zst)) =
    some (some { zc := 20, zr := 20, zk := false, zup := true, zn := 0 }, .run) := by decide +kernel

/-- The first step of the example of R210. -/
theorem test_zzstep : (got (execZzstep armed)).map (fun t => (t.g.read 20 20, t.cursor, t.status)) =
    some (.light, some { zc := 20, zr := 20, zk := true, zup := true, zn := 1 }, 0x00D1) := by decide +kernel

/-- Step 42 of the example of R210: the top boundary turns the walk into the next strip. -/
theorem test_zzstep_boundary : (got (execZzstep { armed with
      cursor := some { zc := 20, zr := 0, zk := true, zup := true, zn := 24 } })).map (·.cursor) =
    some (some { zc := 18, zr := 0, zk := false, zup := false, zn := 24 }) := by decide +kernel

/-- The last strip from (12, 1) on: bits 206 and 207, the last two of 0x10, are 0; then the writer is DONE (R205, R211,
V-MX3). -/
theorem test_zzrun : (got (execZzrun { drawn with
      zst := .run, cursor := some { zc := 1, zr := 12, zk := false, zup := false, zn := 206 } })).map (fun t =>
      (t.g.read 12 1, t.g.read 12 0, t.cursor, t.status)) =
    some (.light, .light, some { zc := 1, zr := 20, zk := false, zup := true, zn := 208 }, 0x01D1) := by
  decide +kernel

/-! ## Mask and format commands -/

/-- The example of R235, on the four cells of the corner. -/
theorem test_maskap : (got (execMaskap 0 placed)).map (fun t =>
      (t.g.read 20 20, t.g.read 20 19, t.g.read 19 20, t.g.read 19 19, t.mskpar)) =
    some (.dark, .light, .dark, .dark, 0x01) := by decide +kernel

/-- The example of R265: row 8, columns 0..5, 7, 8, and column 8, rows 20 up to 14. -/
theorem test_fmtwr : (got (execFmtwr 6 placed)).map (fun t =>
      ([0, 1, 2, 3, 4, 5, 7, 8].map fun c => t.g.read 8 c, [20, 19, 18, 17, 16, 15, 14].map fun r => t.g.read r 8)) =
    some ([.light, .dark, .light, .dark, .dark, .dark, .light, .dark],
      [.light, .dark, .light, .dark, .dark, .dark, .light]) := by decide +kernel

/-- V-PN1, V-PN2, V-PN4, V-PN5. -/
theorem test_penalty_runs :
    ["#####################", "ooooo################", "####oooo#############", "#####oooo####oooo####"].map
      (fun t => n1Line (lineOf t)) = [19, 17, 11, 3] := by decide +kernel

/-- V-PN6, V-PN7, V-PN9, V-PN10 (40 for each occurrence), and the N4 vectors of section 8. -/
theorem test_penalty_patterns :
    ["#o###o#oooo#o#o#o#o#o", "oooo#o###o#oooo#o#o#o", "ooo#o###o#ooo#o#o#o#o", "#o###o#ooo#o###o#oooo"].map
      (fun t => n3Count defaultConfig (lineOf t)) = [1, 2, 0, 1] ∧
    [0, 198, 199, 242, 243, 264, 265, 441].map n4 = [100, 10, 0, 0, 10, 10, 20, 100] := by decide +kernel

/-- PENALTY before any format information, and MASKSEL with a mask applied, are refused (R246, R249). -/
theorem test_penalty_masksel_refused : shown (execPenalty placed) = some (0, 0x81D1, 5) ∧
    shown (execMasksel { placed with mskpar := 0x01 }) = some (0, 0x81D1, 5) := by decide +kernel

/-! ## Errors and the fault state -/

theorem test_sticky : got (execSetlvl 0x4C (State.reset.raise .logZero 0x11000000)) =
    some (State.reset.raise .logZero 0x11000000) := by decide

theorem test_illegal_word : (got (step { State.reset with inbox := [.command 0xFFFFFFFF] })).map
    (fun t => (t.err, t.errcmd, t.status, t.inbox)) = some (4, 0xFFFFFFFF, 0x8000, []) := by decide

/-! ## Witnesses: for each statement with hypotheses, states and operands that meet them together, clause by clause -/

/-- A state with some flags of STATUS set and nothing else. -/
def flagged (fs : List Flag) : State := fs.foldl State.setFlag State.reset

/-- A state in which the host gives one word next. -/
def given (w : Word) : State := { State.reset with inbox := [.command w] }

/-- A full grid: the patterns, and Light everywhere else. -/
def lightGrid : Grid := Grid.tabulate fun r c => (drawnAt r c).getD .light

theorem lightGrid_set : ∀ r c, r ≤ 20 → c ≤ 20 → lightGrid.read r c ≠ .unset := by
  have h : ∀ r ≤ 20, ∀ c ≤ 20, (drawnAt r c).getD .light ≠ .unset := by decide +kernel
  intro r c hr hc
  rw [lightGrid, Grid.read_tabulate _ hr hc]; exact h r hr c hc

/-- PLV, LVLV and FMTV with a full grid, at level Q. -/
def full : State := { State.reset with level := some .Q, g := lightGrid, status := 0x0301 }

theorem witness_EncodeInvertsDecode : decode 0x02000051 = some (.setlvl 0x51) ∧ decode 0x0C001515 = some (.rdcell 21 21) := by
  decide

theorem witness_StepPerformsDecodedCommand :
    (given 0x02000051).inbox = .command 0x02000051 :: [] ∧ decode 0x02000051 = some (.setlvl 0x51) := by decide

theorem witness_StepRaisesIllegalCommand :
    (given 0x21000001).inbox = .command 0x21000001 :: [] ∧ decode 0x21000001 = none ∧ (given 0x21000001).err = 0 := by
  decide

theorem witness_ResetAndIdleSteps :
    { State.reset with inbox := [.rst] }.inbox = .rst :: [] ∧ State.reset.inbox = [] := by decide

theorem witness_FaultStateIgnoresEverything :
    ((given 0x02000051).raise .logZero 0x11000000).inbox = .command 0x02000051 :: [] ∧
    ((given 0x02000051).raise .logZero 0x11000000).err ≠ 0 ∧ (0x02000051 : Word) ≠ 0x01000000 ∧
    ((given 0x01000001).raise .logZero 0x11000000).inbox = .command 0x01000001 :: [] ∧
    (0x01000001 : Word) ≠ 0x01000000 := by decide

theorem witness_RaisingWritesThreeRegisters : ∃ t, exec (.setlvl 0x58) State.reset = .next t ∧
    State.reset.err = 0 ∧ t.err ≠ 0 := ⟨_, rfl, rfl, by decide⟩

theorem witness_SequenceErrorExactlyOutOfOrder :
    inOrder .bsmode State.reset = false ∧ inOrder .fplace State.reset = true ∧
    inOrder (.setlvl 0x51) (flagged [.lvlv]) = false ∧ (flagged [.lvlv]).err = 0 ∧
    (∃ t, exec (.setlvl 0x51) State.reset = .next t ∧ inOrder (.setlvl 0x51) State.reset = true) :=
  ⟨by decide, by decide, by decide, by decide, _, rfl, by decide⟩

theorem witness_OnlyListedErrorsRaised : ∃ t, exec (.gflog 0) State.reset = .next t ∧ t.err = 8 :=
  ⟨_, rfl, by decide⟩

theorem witness_SourceErrorsHaveOneCause :
    (∃ t, exec (.setlvl 0x6C) State.reset = .next t ∧ t.err = 1) ∧
    (∃ t, exec .bsmode (told .Q [0x41, 0x100]) = .next t ∧ t.err = 2) ∧
    (∃ t, exec .bschk (moded .H .byte (List.replicate 8 0x61)) = .next t ∧ t.err = 3) :=
  ⟨⟨_, rfl, by decide⟩, ⟨_, rfl, by decide⟩, ⟨_, rfl, by decide⟩⟩

theorem witness_IllegalOperandAlwaysRaises :
    (Instr.rsgen 26).wellFormed State.reset.cfg = false ∧ (Instr.rdcell 20 21).wellFormed State.reset.cfg = false ∧
    State.reset.err = 0 := by decide

theorem witness_FlagsNeverCleared : ∃ t, exec .fplace (flagged [.lvlv]) = .next t ∧
    (flagged [.lvlv]).status.getLsbD 0 = true := ⟨_, rfl, by decide⟩

theorem witness_ResOnlyByItsWriters :
    (∃ t, exec .fplace State.reset = .next t ∧ writesRes .fplace = false) ∧
    (∃ t, exec (.gflog 0) State.reset = .next t ∧ t.err ≠ 0) :=
  ⟨⟨_, rfl, by decide⟩, ⟨_, rfl, by decide⟩⟩

theorem witness_ConfigurationNeverChanges : ∃ t, step (given 0x02000051) = .next t := ⟨_, rfl⟩

theorem witness_FunctionCellsImmutable :
    drawn.cfg.wf = true ∧ (∃ t, exec .zzinit drawn = .next t) ∧ drawn.flag .fpv = true ∧
    (drawnAt 0 0).isSome = true ∧ (drawnAt 20 6).isSome = true ∧ isFormat 8 0 = true ∧ isFormat 20 8 = true ∧
    isFunction 20 20 = false ∧ isFunction 9 0 = false :=
  ⟨test_config_default, ⟨_, rfl⟩, by decide, by decide, by decide, by decide, by decide, by decide, by decide⟩

/-! ### A finished symbol: the empty message at level H, masked with id 0 -/

def finishedBits : List Bool := padStream 72 (bitsN 4 2 ++ bitsN 9 0)
def finishedData : List Byte := [0x20, 0x00, 0x00, 0xEC, 0x11, 0xEC, 0x11, 0xEC, 0x11]
def finishedEc : List Byte := rsEncode 255 finishedData 17

theorem finishedEc_eq : finishedEc = rsEncode 255 finishedData 17 := rfl

/-- The module of a cell of the finished symbol: a pattern, a placed and masked bit, or Light for a format cell. -/
def finishedCell (r c : Nat) : GridModule :=
  match drawnAt r c with
  | some m => m
  | none =>
    match placementIndex r c with
    | some n => colourOf (combinedBit (finishedData ++ finishedEc) n ^^ maskedBy 1 r c)
    | none => .light

/-- All 26 codewords placed, masked and marked DONE; the host asks for a codeword next. -/
def finished : State where
  inbox := [.command 0x08000000]
  cfg := defaultConfig
  res := 0
  status := 0x17FF
  err := 0
  errcmd := 0
  level := some .H
  mode := some .alphanumeric
  msglen := 0
  reqbits := some 13
  bitlen := some 72
  dlen := 9
  elen := 17
  gendeg := some 17
  msg := []
  bits := finishedBits
  dcw := finishedData
  ecw := finishedEc
  gen := some (rsGen 255 17)
  g := Grid.tabulate finishedCell
  zst := .done
  cursor := some { zc := 1, zr := 20, zk := false, zup := true, zn := 208 }
  mskpar := 1
  best := some 0
  bestpen := some 0

theorem finished_read {r c : Nat} (hr : r ≤ 20) (hc : c ≤ 20) : finished.g.read r c = finishedCell r c :=
  Grid.read_tabulate finishedCell hr hc

theorem finishedCell_set : ∀ r ≤ 20, ∀ c ≤ 20, finishedCell r c ≠ .unset := by
  have hd : ∀ r ≤ 20, ∀ c ≤ 20, drawnAt r c ≠ some .unset := by decide +kernel
  intro r hr c hc
  unfold finishedCell
  split
  · rename_i m hm; rintro rfl; exact hd r hr c hc hm
  · split
    · exact colourOf_ne_unset _
    · decide

theorem finished_inv : Inv finished where
  cfgWf := test_config_default
  faultIff := by decide
  errLegal := by decide
  errcmdZero := by decide
  reservedZero := by decide
  levelHeld := by decide
  modeHeld := by decide
  reqbitsHeld := by decide
  bitlenHeld := by decide
  genHeld := by decide
  bestHeld := by decide
  cursorHeld := by decide
  lengths := ⟨rfl, rfl, rsEncodeWith_length _ _ _ _, fun n h => by
    obtain rfl : 72 = n := Option.some.inj h; decide +kernel⟩
  ranges := ⟨by decide, fun cp h => absurd h (List.not_mem_nil), by decide⟩
  order2 := by decide
  order3 := by decide
  order4 := fun _ => ⟨by decide, fun l h => by obtain rfl : Level.H = l := Option.some.inj h; rfl, fun n h => by
    obtain rfl : 72 = n := Option.some.inj h; decide⟩
  order5 := by decide
  dataFrom := by decide
  order6 := by decide
  order7 := by decide
  order8 := by decide
  order9 := fun _ => ⟨by decide, by decide, by decide, fun b h => by
    obtain rfl : 0 = b := Option.some.inj h; decide⟩
  afterPlacement := by decide
  modeValue := fun m h => by obtain rfl : Mode.alphanumeric = m := Option.some.inj h; decide
  reqValue := fun q m l hq hm hl => by
    obtain rfl : 13 = q := Option.some.inj hq
    obtain rfl : Mode.alphanumeric = m := Option.some.inj hm
    obtain rfl : Level.H = l := Option.some.inj hl
    decide
  bitlenValue := fun h => absurd h (by decide)
  genValue := fun n h => by obtain rfl : 17 = n := Option.some.inj h; exact ⟨by decide, by decide, rfl⟩
  ecwValue := fun _ => by
    have h : finished.elen.toNat = 17 := by decide
    rw [h]; exact finishedEc_eq
  gridWf := Grid.tabulate_wf finishedCell
  drawn := ⟨fun _ r c m hr hc hm => by rw [finished_read hr hc, finishedCell, hm], fun h => absurd h (by decide)⟩
  dataCells := fun r c hr hc _ => by
    rw [finished_read hr hc]; exact ⟨fun _ => rfl, fun _ => finishedCell_set r hr c hc⟩
  formatCells := fun r c hr hc _ => by
    rw [finished_read hr hc]; exact ⟨fun _ => by decide, fun _ => finishedCell_set r hr c hc⟩
  cursorRun := fun h => absurd h (by decide)
  cursorDone := fun _ k h => by
    obtain rfl : ({ zc := 1, zr := 20, zk := false, zup := true, zn := 208 } : Cursor) = k := Option.some.inj h
    decide

theorem finished_placed : PlacedBits finished := by
  have hd : ∀ r ≤ 20, ∀ c ≤ 20, (placementIndex r c).isSome = true → drawnAt r c = none := by decide +kernel
  have hn : ∀ r ≤ 20, ∀ c ≤ 20, ∀ n, placementIndex r c = some n → n < 208 := by
    intro r _ c _ n h
    unfold placementIndex at h
    split at h
    · split at h
      · split at h
        · obtain rfl := Option.some.inj h; assumption
        · exact absurd h (by simp)
      · exact absurd h (by simp)
    · exact absurd h (by simp)
  intro r c n hr hc h _
  have hlt := hn r hr c hc n h
  rw [finished_read hr hc, finishedCell, hd r hr c hc (by simp [h])]
  simp only [h]
  have : decide (n < totBits finished) = true := decide_eq_true (show n < 208 from hlt)
  rw [this, Bool.true_and]; rfl

theorem finished_step : ∃ t, step finished = .next t := ⟨_, rfl⟩

theorem witness_FinishedSymbolReadOnly :
    Inv finished ∧ finished.flag .done = true ∧ (∃ t, exec (.rddcw 0) finished = .next t) :=
  ⟨finished_inv, by decide, _, rfl⟩

theorem witness_ProductsAreFrozen :
    Inv finished ∧ finished.flag .lvlv = true ∧ finished.flag .modev = true ∧ finished.flag .chkv = true ∧
    finished.flag .asmv = true ∧ finished.flag .padv = true ∧ finished.flag .genv = true ∧ finished.flag .ecwv = true ∧
    finished.flag .plv = true ∧ finished.flag .done = true ∧ (Instr.rddcw 0 ≠ .newreq ∧ Instr.rddcw 0 ≠ .bspad) ∧
    (∃ t, exec (.rddcw 0) finished = .next t) :=
  ⟨finished_inv, by decide, by decide, by decide, by decide, by decide, by decide, by decide, by decide, by decide,
    by decide, _, rfl⟩

theorem witness_StepKeepsInvariant : Inv finished ∧ ∃ t, step finished = .next t := ⟨finished_inv, finished_step⟩

theorem witness_StepNeverStops : Inv finished := finished_inv

theorem witness_InvariantGivesTabledItems :
    Inv finished ∧ finished.flag .padv = true ∧ finished.flag .ecwv = true ∧ finished.level = some .H ∧
    finished.elen.toNat = finished.cfg.nec.get .H ∧ finished.flag .plv = true ∧ finished.flag .fmtv = true ∧
    isFormat 20 20 = false :=
  ⟨finished_inv, by decide, by decide, by decide, by decide, by decide, by decide, by decide⟩

theorem witness_StepKeepsPlacedBits : Inv finished ∧ PlacedBits finished ∧ ∃ t, step finished = .next t :=
  ⟨finished_inv, finished_placed, finished_step⟩

/-! ### The commands -/

theorem witness_SetlvlTakesToken :
    State.reset.err = 0 ∧ (flagged [.lvlv]).flag .lvlv = true ∧ State.reset.flag .lvlv = false ∧
    (0x4B : Byte) ≠ 0x4C ∧ (0x4B : Byte) ≠ 0x4D ∧ (0x4B : Byte) ≠ 0x51 ∧ (0x4B : Byte) ≠ 0x48 := by decide

theorem witness_MsgchAppends :
    (flagged [.modev]).err = 0 ∧ (flagged [.modev]).flag .modev = true ∧ (flagged [.raw]).flag .raw = true ∧
    State.reset.flag .modev = false ∧ State.reset.flag .raw = false ∧
    State.reset.cfg.cpMax < (0x110000 : CodePoint).toNat ∧ (0x10FFFF : CodePoint).toNat ≤ State.reset.cfg.cpMax ∧
    State.reset.cfg.msgMax ≤ { State.reset with msglen := 255 }.msglen.toNat ∧
    (told .Q hello).msglen.toNat < State.reset.cfg.msgMax ∧ (told .Q hello).msg.length = (told .Q hello).msglen.toNat ∧
    (told .Q hello).flag .modev = false := by decide

theorem witness_DcwpushAppends :
    (flagged [.modev]).flag .modev = true ∧ (flagged [.ecwv]).flag .ecwv = true ∧ (flagged [.ecwv]).err = 0 ∧
    (raw (List.replicate 25 0) 1).flag .modev = false ∧ (raw (List.replicate 25 0) 1).flag .ecwv = false ∧
    25 ≤ (raw (List.replicate 25 0) 1).dlen.toNat ∧ (raw (List.replicate 24 0) 1).dlen.toNat < 25 ∧
    (raw (List.replicate 24 0) 1).dcw.length = (raw (List.replicate 24 0) 1).dlen.toNat := by decide

theorem witness_RddcwRdecwReadCodewords :
    State.reset.flag .dcwv = false ∧ State.reset.flag .ecwv = false ∧ drawn.err = 0 ∧ drawn.flag .dcwv = true ∧
    drawn.flag .ecwv = true ∧ drawn.dlen.toNat ≤ (13 : Byte).toNat ∧ drawn.elen.toNat ≤ (255 : Byte).toNat ∧
    (12 : Byte).toNat < drawn.dlen.toNat ∧ drawn.dcw[(12 : Byte).toNat]? = some 0xEC ∧
    (12 : Byte).toNat < drawn.elen.toNat ∧ drawn.ecw[(12 : Byte).toNat]? = some 0x10 := by decide

theorem witness_RdgenRdbitReadEntries :
    State.reset.flag .genv = false ∧ State.reset.flag .asmv = false ∧ (raw [] 1).flag .genv = true ∧
    (raw [] 1).err = 0 ∧ (raw [] 1).gendeg = some 1 ∧ (1 : BitVec 5).toNat < (2 : Byte).toNat ∧
    (1 : Byte).toNat ≤ (1 : BitVec 5).toNat ∧ (raw [] 1).gen = some [1, 1] ∧
    ([1, 1] : List Byte)[(1 : Byte).toNat]? = some 1 ∧ assembled.err = 0 ∧ assembled.flag .asmv = true ∧
    assembled.bitlen = some 74 ∧ (74 : BitVec 8).toNat ≤ (74 : Byte).toNat ∧ (73 : Byte).toNat < (74 : BitVec 8).toNat ∧
    assembled.bits[(73 : Byte).toNat]? = some true := by decide +kernel

theorem witness_RdcellRdfuncReadGrid :
    State.reset.err = 0 ∧ 20 < (21 : BitVec 5).toNat ∧ (20 : BitVec 5).toNat ≤ 20 ∧
    placed.g.read (20 : BitVec 5).toNat (18 : BitVec 5).toNat = .unset ∧
    placed.g.read (20 : BitVec 5).toNat (20 : BitVec 5).toNat = .light ∧
    placed.g.read (19 : BitVec 5).toNat (20 : BitVec 5).toNat = .dark := by decide

theorem witness_GfexpGflogReadTables :
    State.reset.err = 0 ∧ 1 < (2 : Byte).toNat ∧ 1 < (255 : Byte).toNat := by decide

theorem witness_GfaddGfmulCompute :
    State.reset.err = 0 ∧ legalLog1 State.reset.cfg.log1 ∧
    legalLog1 { State.reset with cfg := { defaultConfig with log1 := 0 } }.cfg.log1 :=
  ⟨rfl, .inl rfl, .inr rfl⟩

theorem witness_FieldLaws : legalLog1 255 ∧ legalLog1 0 ∧ logRom 255 1 = some 255 ∧ logRom 0 255 = some 175 :=
  ⟨.inl rfl, .inr rfl, by decide, by decide⟩

theorem witness_RsgenRsgenlBuildGenerator :
    (flagged [.genv]).flag .genv = true ∧ State.reset.flag .genv = false ∧ (0 : Byte).toNat = 0 ∧
    25 < (26 : Byte).toNat ∧ 1 ≤ (1 : Byte).toNat ∧ (25 : Byte).toNat ≤ 25 ∧ State.reset.flag .lvlv = false ∧
    (told .H []).flag .lvlv = true ∧ (told .H []).flag .genv = false ∧ (told .H []).level = some .H ∧
    (told .H []).err = 0 := by decide

theorem witness_RsencFillsEcw :
    State.reset.flag .dcwv = false ∧ State.reset.flag .genv = false ∧ (flagged [.ecwv]).flag .ecwv = true ∧
    (raw [1, 2] 24).err = 0 ∧ (raw [1, 2] 24).flag .dcwv = true ∧ (raw [1, 2] 24).flag .genv = true ∧
    (raw [1, 2] 24).flag .ecwv = false ∧ (raw [1, 2] 24).gendeg = some 24 ∧
    (raw [1, 2] 24).dlen.toNat + (24 : BitVec 5).toNat ≤ 26 ∧ (raw [1, 2] 24).dcw.length = (raw [1, 2] 24).dlen.toNat ∧
    (raw [1, 2] 25).gendeg = some 25 ∧ 26 < (raw [1, 2] 25).dlen.toNat + (25 : BitVec 5).toNat ∧
    (raw [1, 2] 24).gen = some (rsGen (raw [1, 2] 24).cfg.log1 (24 : BitVec 5).toNat) :=
  ⟨by decide, by decide, by decide, by decide, by decide, by decide, by decide, by decide, by decide, by decide,
    by decide, by decide, rfl⟩

theorem witness_GeneratorDegreeAndRoots : legalLog1 0 ∧ 25 ≤ 25 ∧ 24 < 25 := ⟨.inr rfl, by decide, by decide⟩

theorem witness_CodewordsDivisibleByGenerator :
    legalLog1 255 ∧ 1 ≤ (List.replicate 25 (0 : Byte)).length ∧ (List.replicate 25 (0 : Byte)).length + 1 ≤ 26 ∧ 0 < 1 :=
  ⟨.inl rfl, by decide, by decide, by decide⟩

theorem witness_EncodingIsLinear :
    legalLog1 255 ∧ ([1, 2] : List Byte).length = ([3, 4] : List Byte).length ∧ 1 ≤ ([1, 2] : List Byte).length ∧
    ([1, 2] : List Byte).length + 24 ≤ 26 ∧ 1 ≤ 24 ∧ 24 ≤ 25 :=
  ⟨.inl rfl, by decide, by decide, by decide, by decide, by decide⟩

theorem witness_BsmodeChoosesMode :
    State.reset.flag .lvlv = false ∧ (flagged [.modev]).flag .modev = true ∧ (flagged [.raw]).flag .raw = true ∧
    (told .Q hello).err = 0 ∧ (told .Q hello).flag .lvlv = true ∧ (told .Q hello).flag .modev = false ∧
    (told .Q hello).flag .raw = false ∧ (told .Q hello).msg.length = (told .Q hello).msglen.toNat ∧
    ((0x30, 0) : CodePoint × Nat) ∈ defaultConfig.alnum ∧ ((0x3A, 44) : CodePoint × Nat) ∈ defaultConfig.alnum ∧
    (∀ e ∈ defaultConfig.alnum, e.1 ≠ (0xFF : CodePoint)) ∧ (0xFF : CodePoint).toNat ≤ 255 ∧
    (∀ e ∈ defaultConfig.alnum, e.1 ≠ (0x100 : CodePoint)) ∧ 255 < (0x100 : CodePoint).toNat := by decide +kernel

theorem witness_BschkValidatesCapacity :
    State.reset.flag .modev = false ∧ (flagged [.chkv]).flag .chkv = true ∧
    (moded .H .byte (List.replicate 7 0x61)).err = 0 ∧ (moded .H .byte (List.replicate 7 0x61)).flag .modev = true ∧
    (moded .H .byte (List.replicate 7 0x61)).flag .chkv = false ∧
    (moded .H .byte (List.replicate 7 0x61)).mode = some .byte ∧
    (moded .H .byte (List.replicate 7 0x61)).level = some .H ∧
    4 + 8 + 8 * (moded .H .byte (List.replicate 7 0x61)).msglen.toNat ≤ 8 * defaultConfig.cap.get .H ∧
    8 * defaultConfig.cap.get .H < 4 + 8 + 8 * (moded .H .byte (List.replicate 8 0x61)).msglen.toNat := by decide

theorem witness_BsasmAssembles :
    State.reset.flag .chkv = false ∧ (flagged [.asmv]).flag .asmv = true ∧ checked.err = 0 ∧
    checked.flag .chkv = true ∧ checked.flag .asmv = false ∧ checked.mode = some .alphanumeric ∧
    checked.reqbits = some 74 ∧ checked.msg.length = checked.msglen.toNat ∧
    assemble checked.cfg .alphanumeric checked.msg = some helloBits := by decide +kernel

theorem witness_AssembledStreamCarriesMessage :
    defaultConfig.wf = true ∧ hello.length ≤ defaultConfig.msgMax ∧ detectMode defaultConfig hello = .alphanumeric ∧
    hello[2 * 4]? = some 0x52 ∧ hello[2 * 4 + 1]? = some 0x4C ∧ ((0x52, 27) : CodePoint × Nat) ∈ defaultConfig.alnum ∧
    ((0x4C, 21) : CodePoint × Nat) ∈ defaultConfig.alnum ∧ hello.length % 2 = 1 ∧ hello[hello.length - 1]? = some 0x44 ∧
    ((0x44, 13) : CodePoint × Nat) ∈ defaultConfig.alnum ∧ detectMode defaultConfig [0xFF] = .byte ∧
    checkBytes [0xFF] = true ∧ ([0xFF] : List CodePoint)[0]? = some 0xFF := by decide +kernel

theorem witness_BspadFillsCapacity :
    State.reset.flag .asmv = false ∧ (flagged [.padv]).flag .padv = true ∧ assembled.err = 0 ∧
    assembled.flag .asmv = true ∧ assembled.flag .padv = false ∧ assembled.level = some .Q ∧
    assembled.bitlen = some 74 ∧ assembled.bits.length = (74 : BitVec 8).toNat := by decide +kernel

/-- For a stream of 5 bits in 3 bytes: bit 5 is a terminator bit, bit 15 a bit of the byte boundary, codeword 2 the
first pad byte. -/
theorem witness_PaddedStreamFillsCapacity :
    (List.replicate 5 true).length ≤ 8 * 3 ∧ (List.replicate 5 true).length ≤ 5 ∧ 5 < 8 * 3 ∧
    5 < (List.replicate 5 true).length + 4 ∧ 15 < 8 * ((min ((List.replicate 5 true).length + 4) (8 * 3) + 7) / 8) ∧
    (min ((List.replicate 5 true).length + 4) (8 * 3) + 7) / 8 + 0 < 3 ∧ 2 < 3 ∧ 7 < 8 ∧
    (packBytes 3 (padStream (8 * 3) (List.replicate 5 true)))[2]? = some 0xEC := by decide +kernel

theorem witness_FplaceDrawsPatterns :
    (flagged [.fpv]).flag .fpv = true ∧ State.reset.flag .fpv = false ∧ State.reset.err = 0 ∧
    drawnAt 20 6 = some .dark ∧ drawnAt 20 20 = none := by decide

theorem witness_ZzinitArmsWriter :
    State.reset.flag .fpv = false ∧ State.reset.flag .ecwv = false ∧ armed.zst ≠ .idle ∧ drawn.err = 0 ∧
    drawn.flag .fpv = true ∧ drawn.flag .ecwv = true ∧ drawn.zst = .idle := by decide

/-- The cursors at which each clause of ZZSTEP's statement applies, boundary rows and columns among them. -/
theorem witness_ZzstepMovesOnce :
    State.reset.zst ≠ .run ∧ armed.err = 0 ∧ armed.zst = .run ∧ armed.cursor = some Cursor.start ∧
    Cursor.start.onPath = true ∧ armed.dcw.length = armed.dlen.toNat ∧ armed.ecw.length = armed.elen.toNat ∧
    armed.dlen.toNat + armed.elen.toNat ≤ 26 ∧ isFunction 0 20 = true ∧ isFunction 20 20 = false ∧
    State.reset.g.read 20 20 = .unset ∧ Cursor.start.zn.toNat < totBits armed ∧
    exhausted.zst = .run ∧ exhausted.dcw.length = exhausted.dlen.toNat ∧
    exhausted.ecw.length = exhausted.elen.toNat ∧ totBits exhausted ≤ (16 : BitVec 8).toNat ∧
    isFunction 12 20 = false ∧ exhausted.g.read 12 20 = .unset ∧ Cursor.start.zk = false ∧
    (∀ k ∈ [({ zc := 20, zr := 1, zk := true, zup := true, zn := 0 } : Cursor),
      { zc := 18, zr := 19, zk := true, zup := false, zn := 0 }, { zc := 20, zr := 0, zk := true, zup := true, zn := 0 },
      { zc := 18, zr := 20, zk := true, zup := false, zn := 0 }, { zc := 1, zr := 20, zk := true, zup := false, zn := 0 },
      { zc := 8, zr := 0, zk := true, zup := true, zn := 0 }], k.onPath = true ∧ k.zk = true) := by
  decide +kernel

theorem witness_ZzrunRunsToTheEnd :
    State.reset.zst ≠ .run ∧ armed.err = 0 ∧ armed.zst = .run ∧ armed.cursor = some Cursor.start ∧
    Cursor.start.onPath = true ∧ Cursor.start.zup = stripUp Cursor.start.zc.toNat ∧
    armed.dcw.length = armed.dlen.toNat ∧ armed.ecw.length = armed.elen.toNat ∧
    armed.dlen.toNat + armed.elen.toNat ≤ 26 ∧ isFunction 0 20 = true ∧ isFunction 9 0 = false ∧
    stepsTaken Cursor.start ≤ visitStep 20 20 ∧ visitStep 20 20 < visitStep 9 0 ∧
    (∃ v, exec .zzstep armed = .next v ∧ v.zst = .run) :=
  ⟨by decide, by decide, by decide, by decide, by decide, by decide, by decide, by decide, by decide, by decide,
    by decide, by decide, by decide, _, rfl, by decide +kernel⟩

theorem witness_WalkTakes420Steps :
    (List.replicate 208 true).length ≤ 208 ∧ 419 < 420 ∧
    (∀ r c, r ≤ 20 → c ≤ 20 → isFunction r c = false → Grid.read [] r c = .unset) :=
  ⟨List.length_replicate.le, by decide, fun _ _ _ _ _ => rfl⟩

theorem witness_PlacementFollowsPrintedMap :
    armed.err = 0 ∧ armed.zst = .run ∧ armed.cursor = some Cursor.start ∧ armed.dcw.length = armed.dlen.toNat ∧
    armed.ecw.length = armed.elen.toNat ∧ armed.dlen.toNat + armed.elen.toNat ≤ 26 ∧
    (∀ r c, r ≤ 20 → c ≤ 20 → isFunction r c = false → armed.g.read r c = .unset) ∧
    placementIndex 20 20 = some 0 ∧ placementIndex 12 0 = some 207 ∧ placementIndex 8 8 = none ∧
    207 < totBits armed ∧ combinedBit (armed.dcw ++ armed.ecw) 2 = true ∧
    combinedBit (armed.dcw ++ armed.ecw) 207 = false ∧
    (({ exhausted with cursor := some Cursor.start } : State).dcw.length = exhausted.dlen.toNat ∧
      exhausted.ecw.length = exhausted.elen.toNat ∧ exhausted.dlen.toNat + exhausted.elen.toNat ≤ 26 ∧
      exhausted.err = 0 ∧ exhausted.zst = .run ∧ exhausted.g = armed.g ∧ totBits exhausted ≤ 16 ∧
      placementIndex 12 20 = some 16) := by
  have hd : ∀ r ≤ 20, ∀ c ≤ 20, isFunction r c = false → drawnAt r c = none := by decide +kernel
  refine ⟨by decide, by decide, by decide, by decide, by decide, by decide, fun r c hr hc hf => ?_, by decide,
    by decide, by decide, by decide, by decide, by decide, by decide, by decide, by decide, by decide, by decide,
    rfl, by decide, by decide⟩
  have : armed.g.read r c = (drawnAt r c).getD (Grid.read [] r c) := read_drawFunctionPatterns [] hr hc
  rw [this, hd r hr c hc hf]; rfl

theorem witness_MaskapFlipsDataCells :
    State.reset.flag .plv = false ∧ finished.flag .done = true ∧ placed.err = 0 ∧ placed.flag .plv = true ∧
    placed.flag .done = false ∧ isFunction 20 20 = false ∧ maskFormula 0 20 20 = true ∧ placed.g.read 20 20 = .light ∧
    maskFormula 1 20 20 = true ∧ placed.g.read 19 20 = .dark ∧ maskFormula 2 19 20 = false ∧ isFunction 0 0 = true := by
  decide

theorem witness_MaskIsInvolution : ∃ t, Memory.wf full.g = true ∧ full.err = 0 ∧
    (∀ r c, r ≤ 20 → c ≤ 20 → isFunction r c = false → full.g.read r c ≠ .unset) ∧
    exec (.maskap 7) full = .next t ∧ t.err = 0 :=
  ⟨_, Grid.tabulate_wf fun r c => (drawnAt r c).getD .light, by decide, fun r c hr hc _ => lightGrid_set r c hr hc, rfl,
    by decide⟩

theorem witness_FmtwrWritesBothCopies :
    State.reset.flag .plv = false ∧ State.reset.flag .lvlv = false ∧ finished.flag .done = true ∧ placed.err = 0 ∧
    placed.flag .plv = true ∧ placed.flag .lvlv = true ∧ placed.flag .done = false ∧ placed.level = some .Q ∧
    placed.cfg.wf = true ∧ placed.cfg.fmtPosA[14]? = some (0, 8) ∧ placed.cfg.fmtPosB[14]? = some (8, 20) ∧
    isFormat 20 20 = false := by decide +kernel

theorem witness_PenaltyScoresGrid :
    State.reset.flag .plv = false ∧ placed.flag .fmtv = false ∧ full.err = 0 ∧ full.flag .plv = true ∧
    full.flag .fmtv = true ∧ full.cfg.wf = true ∧ (∀ r c, r ≤ 20 → c ≤ 20 → full.g.read r c ≠ .unset) :=
  ⟨by decide, by decide, by decide, by decide, by decide, test_config_default, lightGrid_set⟩

/-- A configuration that lists one line, and the count function it stands for; the other lines count as by default. -/
theorem witness_PenaltyTermsByCounting : ∃ count : List GridModule → Nat, ∃ c : Config,
    c.n3fn = [(List.replicate 21 .light, 7)] ∧ (∀ cells n, (cells, n) ∈ c.n3fn → count cells = n) ∧
    (∀ cells, (∀ n, (cells, n) ∉ c.n3fn) → count cells = printedMatches cells) := by
  refine ⟨fun cells => if cells = List.replicate 21 .light then 7 else printedMatches cells,
    { defaultConfig with n3fn := [(List.replicate 21 .light, 7)] }, rfl, fun cells n h => ?_, fun cells h => ?_⟩
  · obtain ⟨rfl, rfl⟩ := Prod.mk.inj (List.mem_singleton.mp h)
    exact if_pos rfl
  · refine if_neg fun he => h 7 ?_
    rw [he]; exact List.mem_singleton.mpr rfl

theorem witness_MaskselFinishesSymbol :
    State.reset.flag .plv = false ∧ State.reset.flag .lvlv = false ∧ { full with mskpar := 0x80 }.mskpar ≠ 0 ∧
    finished.flag .done = true ∧ full.err = 0 ∧ full.flag .plv = true ∧ full.flag .lvlv = true ∧ full.mskpar = 0 ∧
    full.flag .done = false ∧ full.level = some .Q ∧ full.cfg.wf = true ∧
    (∀ r c, r ≤ 20 → c ≤ 20 → isFormat r c = true ∨ full.g.read r c ≠ .unset) :=
  ⟨by decide, by decide, by decide, by decide, by decide, by decide, by decide, by decide, by decide, by decide,
    test_config_default, fun r c hr hc => .inr (lightGrid_set r c hr hc)⟩

theorem witness_SelectionIsFirstMinimum : defaultConfig.wf = true ∧
    (∀ r c, r ≤ 20 → c ≤ 20 → isFunction r c = false → lightGrid.read r c ≠ .unset) ∧
    (∀ r c, r ≤ 20 → c ≤ 20 → isFormat r c = false → lightGrid.read r c = lightGrid.read r c) :=
  ⟨test_config_default, fun r c hr hc _ => lightGrid_set r c hr hc, fun _ _ _ _ _ => rfl⟩

end Sys2Proof.Tests
end

/-! # What a command can do

`Effect s i t` lists, command by command, the state a command leaves when it is neither ignored nor refused, with what
its Checks established. `exec_next` is the one inversion of `exec` that every proof over all commands starts from. -/

namespace Sys2Proof.Proofs

open Host Sys2Proof.Machine Sys2Proof.Safety

/-- What command `i` leaves of state `s` when it takes effect. The commands that write RES and nothing else share one
case, and so do RSGEN with RSGENL and ZZSTEP with ZZRUN. -/
inductive Effect (s : State) : Instr → State → Prop
  | read {i : Instr} {n : Nat} (hw : writesRes i = true) (v : BitVec n) : Effect s i (s.setRes v)
  | setlvl {tok : Byte} (l : Level) : Effect s (.setlvl tok) ({ s with level := some l }.setFlag .lvlv)
  | msgch {cp : CodePoint} (hcp : cp.toNat ≤ s.cfg.cpMax) (hlen : s.msglen.toNat < s.cfg.msgMax) :
      Effect s (.msgch cp) { s with msg := appended s.msg s.msglen.toNat cp, msglen := s.msglen + 1 }
  | dcwpush {b : Byte} (hlen : s.dlen.toNat < DCWMAX) :
      Effect s (.dcwpush b)
        (({ s with dcw := appended s.dcw s.dlen.toNat b, dlen := s.dlen + 1 }.setFlag .dcwv).setFlag .raw)
  | rsgen {b : Byte} (hn : 1 ≤ b.toNat ∧ b.toNat ≤ 25) : Effect s (.rsgen b) (s.withGenerator b.toNat)
  | rsgenl {l : Level} (hl : s.level = some l) : Effect s .rsgenl (s.withGenerator (s.cfg.nec.get l))
  | rsenc {n : BitVec 5} {data gen g : List Byte} (hn : s.gendeg = some n) (hsum : s.dlen.toNat + n.toNat ≤ TOTALCW)
      (hdata : entries s.dcw s.dlen.toNat = some data) (hgen : s.gen = some gen)
      (hg : entries gen (n.toNat + 1) = some g) :
      Effect s .rsenc ({ s with ecw := rsEncodeWith s.cfg.log1 g data n.toNat, elen := n }.setFlag .ecwv)
  | bsmode {msg : List CodePoint} (hmsg : entries s.msg s.msglen.toNat = some msg)
      (hok : (detectMode s.cfg msg == .alphanumeric || checkBytes msg) = true) :
      Effect s .bsmode
        (({ s with mode := some (detectMode s.cfg msg) }.setFlag .modev).setRes (detectMode s.cfg msg).code)
  | bschk {m : Mode} {l : Level} (hm : s.mode = some m) (hl : s.level = some l)
      (hcap : requiredBits m s.msglen.toNat ≤ capBits s.cfg l) :
      Effect s .bschk
        (({ s with reqbits := some (BitVec.ofNat 16 (requiredBits m s.msglen.toNat)) }.setFlag .chkv).setRes
          (BitVec.ofNat 16 (requiredBits m s.msglen.toNat)))
  | bsasm {m : Mode} {q : BitVec 16} {msg : List CodePoint} {bs : List Bool} (hm : s.mode = some m)
      (hq : s.reqbits = some q) (hmsg : entries s.msg s.msglen.toNat = some msg)
      (hbs : assemble s.cfg m msg = some bs) :
      Effect s .bsasm ({ s with bits := bs, bitlen := some (q.setWidth 8) }.setFlag .asmv)
  | bspad {l : Level} {n : BitVec 8} {bs : List Bool} (hl : s.level = some l) (hn : s.bitlen = some n)
      (hbs : entries s.bits n.toNat = some bs) :
      Effect s .bspad (({ s with
        bits := padStream (capBits s.cfg l) bs, bitlen := some (BitVec.ofNat 8 (capBits s.cfg l)),
        dcw := packBytes (s.cfg.cap.get l) (padStream (capBits s.cfg l) bs),
        dlen := BitVec.ofNat 5 (s.cfg.cap.get l) }.setFlag .dcwv).setFlag .padv)
  | fplace : Effect s .fplace ({ s with g := drawFunctionPatterns s.g }.setFlag .fpv)
  | zzinit : Effect s .zzinit { s with zst := .run, cursor := some Cursor.start }
  | zzstep {cur : Cursor} {data ec : List Byte} (hcur : s.cursor = some cur)
      (hdata : entries s.dcw s.dlen.toNat = some data) (hec : entries s.ecw s.elen.toNat = some ec) :
      Effect s .zzstep (s.withWalk (zzStep (codewordBits (data ++ ec)) { g := s.g, zst := s.zst, cur := cur }))
  | zzrun {cur : Cursor} {data ec : List Byte} (hcur : s.cursor = some cur)
      (hdata : entries s.dcw s.dlen.toNat = some data) (hec : entries s.ecw s.elen.toNat = some ec) :
      Effect s .zzrun
        (s.withWalk (zzRun (codewordBits (data ++ ec)) WALKSTEPS { g := s.g, zst := s.zst, cur := cur }))
  | maskap {id : BitVec 3} :
      Effect s (.maskap id) { s with g := applyMask id s.g, mskpar := s.mskpar ^^^ (1#8 <<< id.toNat) }
  | masksel {l : Level} (hl : s.level = some l) :
      Effect s .masksel ((({ s with
        g := (select s.cfg l s.g).g, best := some (select s.cfg l s.g).best,
        bestpen := some (BitVec.ofNat 32 (select s.cfg l s.g).bestpen),
        mskpar := 1#8 <<< (select s.cfg l s.g).best.toNat }.setFlag .fmtv).setFlag .done).setRes
        (select s.cfg l s.g).best)
  | fmtwr {id : BitVec 3} {l : Level} (hl : s.level = some l) :
      Effect s (.fmtwr id) ({ s with g := writeFormat s.cfg l id s.g }.setFlag .fmtv)

/-- A command that is not NEWREQ was ignored, or raised, or took effect in its order (R100, R277, R278). -/
def Outcomes (s : State) (i : Instr) (t : State) : Prop :=
  (s.err ≠ 0 ∧ t = s) ∨ (s.err = 0 ∧ ∃ e, t = s.raise e (encode i)) ∨
    (s.err = 0 ∧ inOrder i s = true ∧ Effect s i t)

section Introduction

variable {s t : State} {i : Instr}

theorem Outcomes.ignored (h : s.err ≠ 0 ∧ t = s) : Outcomes s i t := .inl h

theorem Outcomes.raised {e : ErrorKind} (he : s.err = 0) (ht : t = s.raise e (encode i)) : Outcomes s i t :=
  .inr (.inl ⟨he, e, ht⟩)

theorem Outcomes.effect (he : s.err = 0) (ho : inOrder i s = true) (h : Effect s i t) : Outcomes s i t :=
  .inr (.inr ⟨he, ho, h⟩)

end Introduction

theorem outcomes_of_exec {i : Instr} {s t : State} (hi : i ≠ .newreq) (h : exec i s = .next t) : Outcomes s i t := by
  cases i with
  | newreq => exact absurd rfl hi
  | setlvl tok =>
    obtain h | ⟨he, -, ht⟩ | ⟨he, -, -, ht⟩ | ⟨he, ho, l, -, rfl⟩ := execSetlvl_next h
    · exact .ignored h
    · exact .raised he ht
    · exact .raised he ht
    · exact .effect he ho (.setlvl l)
  | msgch cp =>
    obtain h | ⟨he, -, ht⟩ | ⟨he, -, -, ht⟩ | ⟨he, -, -, -, ht⟩ | ⟨he, ho, hcp, hlen, rfl⟩ := execMsgch_next h
    · exact .ignored h
    · exact .raised he ht
    · exact .raised he ht
    · exact .raised he ht
    · exact .effect he ho (.msgch hcp hlen)
  | dcwpush b =>
    obtain h | ⟨he, -, ht⟩ | ⟨he, -, -, ht⟩ | ⟨he, ho, hlen, rfl⟩ := execDcwpush_next h
    · exact .ignored h
    · exact .raised he ht
    · exact .raised he ht
    · exact .effect he ho (.dcwpush hlen)
  | rddcw k =>
    obtain h | ⟨he, -, ht⟩ | ⟨he, -, -, ht⟩ | ⟨he, ho, -, b, -, rfl⟩ := execRddcw_next h
    · exact .ignored h
    · exact .raised he ht
    · exact .raised he ht
    · exact .effect he ho (.read rfl b)
  | rdecw k =>
    obtain h | ⟨he, -, ht⟩ | ⟨he, -, -, ht⟩ | ⟨he, ho, -, b, -, rfl⟩ := execRdecw_next h
    · exact .ignored h
    · exact .raised he ht
    · exact .raised he ht
    · exact .effect he ho (.read rfl b)
  | rdgen k =>
    obtain h | ⟨he, -, ht⟩ | ⟨he, -, n, -, -, ht⟩ | ⟨he, ho, n, -, -, g, -, b, -, rfl⟩ := execRdgen_next h
    · exact .ignored h
    · exact .raised he ht
    · exact .raised he ht
    · exact .effect he ho (.read rfl b)
  | rdbit k =>
    obtain h | ⟨he, -, ht⟩ | ⟨he, -, n, -, -, ht⟩ | ⟨he, ho, n, -, -, b, -, rfl⟩ := execRdbit_next h
    · exact .ignored h
    · exact .raised he ht
    · exact .raised he ht
    · exact .effect he ho (.read rfl _)
  | rdcell r c =>
    obtain h | ⟨he, -, ht⟩ | ⟨he, -, -, ht⟩ | ⟨he, ho, -, rfl⟩ := execRdcell_next h
    · exact .ignored h
    · exact .raised he ht
    · exact .raised he ht
    · exact .effect he ho (.read rfl _)
  | rdfunc r c =>
    obtain h | ⟨he, -, ht⟩ | ⟨he, -, -, ht⟩ | ⟨he, ho, -, rfl⟩ := execRdfunc_next h
    · exact .ignored h
    · exact .raised he ht
    · exact .raised he ht
    · exact .effect he ho (.read rfl _)
  | gfexp k =>
    obtain h | ⟨he, -, ht⟩ | ⟨he, ho, rfl⟩ := execGfexp_next h
    · exact .ignored h
    · exact .raised he ht
    · exact .effect he ho (.read rfl _)
  | gflog v =>
    obtain h | ⟨he, -, ht⟩ | ⟨he, -, -, ht⟩ | ⟨he, ho, l, -, rfl⟩ := execGflog_next h
    · exact .ignored h
    · exact .raised he ht
    · exact .raised he ht
    · exact .effect he ho (.read rfl l)
  | gfadd a b =>
    obtain h | ⟨he, -, ht⟩ | ⟨he, ho, rfl⟩ := execGfadd_next h
    · exact .ignored h
    · exact .raised he ht
    · exact .effect he ho (.read rfl _)
  | gfmul a b =>
    obtain h | ⟨he, -, ht⟩ | ⟨he, ho, rfl⟩ := execGfmul_next h
    · exact .ignored h
    · exact .raised he ht
    · exact .effect he ho (.read rfl _)
  | rsgen n =>
    obtain h | ⟨he, -, ht⟩ | ⟨he, -, -, ht⟩ | ⟨he, ho, hn, rfl⟩ := execRsgen_next h
    · exact .ignored h
    · exact .raised he ht
    · exact .raised he ht
    · exact .effect he ho (.rsgen (by simpa using hn))
  | rsgenl =>
    obtain h | ⟨he, -, ht⟩ | ⟨he, ho, l, hl, rfl⟩ := execRsgenl_next h
    · exact .ignored h
    · exact .raised he ht
    · exact .effect he ho (.rsgenl hl)
  | rsenc =>
    obtain h | ⟨he, -, ht⟩ | ⟨he, -, n, -, -, ht⟩ | ⟨he, ho, n, hn, hsum, data, hdata, gen, hgen, g, hg, rfl⟩ :=
      execRsenc_next h
    · exact .ignored h
    · exact .raised he ht
    · exact .raised he ht
    · exact .effect he ho (.rsenc hn hsum hdata hgen hg)
  | bsmode =>
    obtain h | ⟨he, -, ht⟩ | ⟨he, -, msg, -, -, ht⟩ | ⟨he, ho, msg, hmsg, hok, rfl⟩ := execBsmode_next h
    · exact .ignored h
    · exact .raised he ht
    · exact .raised he ht
    · exact .effect he ho (.bsmode hmsg hok)
  | bschk =>
    obtain h | ⟨he, -, ht⟩ | ⟨he, -, m, -, l, -, -, ht⟩ | ⟨he, ho, m, hm, l, hl, hcap, rfl⟩ := execBschk_next h
    · exact .ignored h
    · exact .raised he ht
    · exact .raised he ht
    · exact .effect he ho (.bschk hm hl hcap)
  | bsasm =>
    obtain h | ⟨he, -, ht⟩ | ⟨he, ho, m, hm, q, hq, msg, hmsg, bs, hbs, rfl⟩ := execBsasm_next h
    · exact .ignored h
    · exact .raised he ht
    · exact .effect he ho (.bsasm hm hq hmsg hbs)
  | bspad =>
    obtain h | ⟨he, -, ht⟩ | ⟨he, ho, l, hl, n, hn, bs, hbs, rfl⟩ := execBspad_next h
    · exact .ignored h
    · exact .raised he ht
    · exact .effect he ho (.bspad hl hn hbs)
  | fplace =>
    obtain h | ⟨he, -, ht⟩ | ⟨he, ho, rfl⟩ := execFplace_next h
    · exact .ignored h
    · exact .raised he ht
    · exact .effect he ho .fplace
  | zzinit =>
    obtain h | ⟨he, -, ht⟩ | ⟨he, ho, rfl⟩ := execZzinit_next h
    · exact .ignored h
    · exact .raised he ht
    · exact .effect he ho .zzinit
  | zzstep =>
    obtain h | ⟨he, -, ht⟩ | ⟨he, ho, cur, hcur, -, data, hdata, ec, hec, rfl⟩ := execZzstep_next h
    · exact .ignored h
    · exact .raised he ht
    · exact .effect he ho (.zzstep hcur hdata hec)
  | zzrun =>
    obtain h | ⟨he, -, ht⟩ | ⟨he, ho, cur, hcur, -, data, hdata, ec, hec, rfl⟩ := execZzrun_next h
    · exact .ignored h
    · exact .raised he ht
    · exact .effect he ho (.zzrun hcur hdata hec)
  | maskap id =>
    obtain h | ⟨he, -, ht⟩ | ⟨he, ho, rfl⟩ := execMaskap_next h
    · exact .ignored h
    · exact .raised he ht
    · exact .effect he ho .maskap
  | penalty =>
    obtain h | ⟨he, -, ht⟩ | ⟨he, ho, -, rfl⟩ := execPenalty_next h
    · exact .ignored h
    · exact .raised he ht
    · exact .effect he ho (.read rfl _)
  | masksel =>
    obtain h | ⟨he, -, ht⟩ | ⟨he, ho, l, hl, -, rfl⟩ := execMasksel_next h
    · exact .ignored h
    · exact .raised he ht
    · exact .effect he ho (.masksel hl)
  | fmtwr id =>
    obtain h | ⟨he, -, ht⟩ | ⟨he, ho, l, hl, rfl⟩ := execFmtwr_next h
    · exact .ignored h
    · exact .raised he ht
    · exact .effect he ho (.fmtwr hl)

/-- Everything a command that answers a next state can have done. -/
theorem exec_next {i : Instr} {s t : State} (h : exec i s = .next t) :
    (i = .newreq ∧ t = s.restart) ∨ (i ≠ .newreq ∧ Outcomes s i t) := by
  by_cases hi : i = .newreq
  · subst hi; exact .inl ⟨rfl, execNewreq_next h⟩
  · exact .inr ⟨hi, outcomes_of_exec hi h⟩

/-! ## What a command that took effect found -/

section InOrder

variable {i : Instr} {s : State}

/-- A flag that the command needs to be 1 was 1 (R304). -/
theorem flag_of_inOrder (ho : inOrder i s = true) (f : Flag) (hf : f ∈ needsOne i := by simp [needsOne]) :
    s.flag f = true := by
  simp only [inOrder, Bool.and_eq_true, List.all_eq_true] at ho
  exact ho.1.1 f hf

/-- A flag that the command needs to be 0 was 0 (R304). -/
theorem not_flag_of_inOrder (ho : inOrder i s = true) (f : Flag) (hf : f ∈ needsZero i := by simp [needsZero]) :
    s.flag f = false := by
  simp only [inOrder, Bool.and_eq_true, List.all_eq_true, Bool.not_eq_true'] at ho
  exact ho.1.2 f hf

/-- The writer and MSKPAR were as the command needs them (R304). -/
theorem needsState_of_inOrder (ho : inOrder i s = true) : needsState i s = true := by
  simp only [inOrder, Bool.and_eq_true] at ho
  exact ho.2

end InOrder

/-! ## What every effect leaves -/

section Frame

variable {s t : State} {i : Instr}

/-- No effect changes the configuration (R61). -/
theorem Effect.cfg_eq (h : Effect s i t) : t.cfg = s.cfg := by
  cases h with
  | rsgen | rsgenl => rfl
  | _ => simp

/-- No effect writes ERR: only an error does (R275). -/
theorem Effect.err_eq (h : Effect s i t) : t.err = s.err := by
  cases h with
  | rsgen | rsgenl => rfl
  | _ => simp

/-- The effect of a command whose rule does not write RES leaves it (R24). -/
theorem Effect.res_eq (h : Effect s i t) (hw : writesRes i = false) : t.res = s.res := by
  cases h with
  | read hr => exact absurd (hr.symm.trans hw) (by decide)
  | bsmode | bschk | masksel => exact absurd hw (by decide)
  | rsgen | rsgenl => rfl
  | _ => simp

/-- Setting a flag clears none (R29). -/
theorem statusWith_keeps {st : BitVec 16} {b : Nat} (f : Flag) (hb : st.getLsbD b = true) :
    (statusWith st f).getLsbD b = true := by simp [statusWith_getLsbD, hb]

/-- No effect clears a bit of STATUS (R29). -/
theorem Effect.status_keeps (h : Effect s i t) {b : Nat} (hb : s.status.getLsbD b = true) :
    t.status.getLsbD b = true := by
  cases h with
  | read | msgch | zzinit | maskap => exact hb
  | zzstep | zzrun =>
    rw [State.withWalk_status]; split
    · exact statusWith_keeps _ hb
    · exact hb
  | dcwpush | bspad | masksel => exact statusWith_keeps _ (statusWith_keeps _ hb)
  | _ => exact statusWith_keeps _ hb

end Frame

/-- Settles O14: an ignored command keeps STATUS, an error and an effect only set flags. -/
theorem flagsNeverCleared : Obligations.FlagsNeverCleared := by
  intro i s t hi h b hb
  obtain ⟨-, rfl⟩ | ⟨-, e, rfl⟩ | ⟨-, -, heff⟩ := outcomes_of_exec hi h
  · exact hb
  · exact statusWith_keeps _ hb
  · exact heff.status_keeps hb

/-- Settles O15: an ignored command and an error leave RES; an effect leaves ERR at 0, and RES unless the command's
rule writes it. -/
theorem resOnlyByItsWriters : Obligations.ResOnlyByItsWriters := by
  intro i s t hi h hres
  obtain ⟨-, rfl⟩ | ⟨-, e, rfl⟩ | ⟨he, -, heff⟩ := outcomes_of_exec hi h
  · rfl
  · rfl
  · exact heff.res_eq (hres.resolve_right fun hne => hne (heff.err_eq.trans he))

/-- No command changes the configuration (R21, R61). -/
theorem exec_cfg_eq {i : Instr} {s t : State} (h : exec i s = .next t) : t.cfg = s.cfg := by
  obtain ⟨-, rfl⟩ | ⟨-, ⟨-, rfl⟩ | ⟨-, e, rfl⟩ | ⟨-, -, heff⟩⟩ := exec_next h
  · rfl
  · rfl
  · rfl
  · exact heff.cfg_eq

/-- Settles O16: the idle step, a reset, a command and an illegal word each keep CFG. -/
theorem configurationNeverChanges : Obligations.ConfigurationNeverChanges := by
  intro s t h
  obtain ⟨-, rfl⟩ | ⟨rest, -, rfl⟩ | ⟨w, rest, -, ⟨i, -, hx⟩ | ⟨-, hx⟩⟩ := step_next h
  · rfl
  · rfl
  · exact (exec_cfg_eq hx :)
  · obtain ⟨-, rfl⟩ | ⟨-, rfl⟩ := illegalCommand_next hx
    · rfl
    · rfl

/-- Settles O7: the two inputs that give the core no command. -/
theorem resetAndIdleSteps : Obligations.ResetAndIdleSteps := by
  refine ⟨fun s rest h => ?_, fun s h => ?_⟩
  · simp only [step, takeInput_rst h]; rfl
  · simp only [step, takeInput_nil h]; rfl

end Sys2Proof.Proofs

/-! # The cells of the grid

Which cells FPLACE draws, which hold format information and which hold data; and what masks, format information and the
selection leave of each kind. -/

namespace Sys2Proof.Proofs

open Sys2Proof.Machine Sys2Proof.Safety

/-! ## The kinds of cells (R195 to R197) -/

/-- FPLACE draws exactly the function cells that are not format cells (R195, R196, R208). -/
theorem drawnAt_isSome : ∀ r ≤ 20, ∀ c ≤ 20, (drawnAt r c).isSome = (isFunction r c && !isFormat r c) := by
  decide +kernel

theorem isFunction_of_isFormat {r c : Nat} (h : isFormat r c = true) : isFunction r c = true := by
  simp [isFormat] at h
  simp [isFunction]
  omega

/-- Format cells lie in the grid (R195). -/
theorem bounds_of_isFormat {r c : Nat} (h : isFormat r c = true) : r ≤ 20 ∧ c ≤ 20 := by
  simp [isFormat] at h
  omega

/-- Column 6 holds no data cell (R196). -/
theorem isFunction_column_six (r : Nat) : isFunction r 6 = true := by simp [isFunction]

section Cells

variable {r c : Nat}

/-- A cell that FPLACE does not draw and that is not a format cell is a data cell. -/
theorem isFunction_eq_false_of_not_drawn (hr : r ≤ 20) (hc : c ≤ 20) (hd : drawnAt r c = none)
    (hf : isFormat r c = false) : isFunction r c = false := by
  simpa [hd, hf] using (drawnAt_isSome r hr c hc).symm

theorem drawnAt_of_data (hr : r ≤ 20) (hc : c ≤ 20) (hf : isFunction r c = false) : drawnAt r c = none := by
  simpa [hf] using drawnAt_isSome r hr c hc

theorem drawnAt_of_isFormat (hf : isFormat r c = true) : drawnAt r c = none := by
  obtain ⟨hr, hc⟩ := bounds_of_isFormat hf
  simpa [hf] using drawnAt_isSome r hr c hc

/-- A drawn cell is a function cell and no format cell. -/
theorem kind_of_drawn {m : GridModule} (hr : r ≤ 20) (hc : c ≤ 20) (hd : drawnAt r c = some m) :
    isFunction r c = true ∧ isFormat r c = false := by
  simpa [hd] using (drawnAt_isSome r hr c hc).symm

end Cells

/-- No cell is drawn as Unset (R191 to R194). -/
theorem drawnAt_ne_unset : ∀ r ≤ 20, ∀ c ≤ 20, drawnAt r c ≠ some .unset := by decide +kernel

/-! ## The premises on CFG (R10) -/

/-- The four checks that `Config.wf` consists of. -/
theorem checks_of_wf {c : Config} (h : c.wf = true) :
    c.alnumWf = true ∧ c.budgetWf = true ∧ c.fmtPosWf = true ∧ c.paramsWf = true := by
  simpa only [Config.wf, Bool.and_eq_true, and_assoc] using h

/-- The capacities and the numbers of EC codewords of a level (R10). -/
theorem budget_of_wf {c : Config} (h : c.wf = true) (l : Level) :
    1 ≤ c.cap.get l ∧ c.cap.get l ≤ 25 ∧ 1 ≤ c.nec.get l ∧ c.nec.get l ≤ 25 ∧ c.cap.get l + c.nec.get l = 26 := by
  obtain ⟨-, hbudget, -⟩ := checks_of_wf h
  have hl := List.all_eq_true.mp hbudget l (by cases l <;> simp)
  simpa [TOTALCW, and_assoc] using hl

theorem msgMax_le_of_wf {c : Config} (h : c.wf = true) : c.msgMax ≤ 255 := by
  obtain ⟨-, -, -, hparams⟩ := checks_of_wf h
  simp only [Config.paramsWf, Bool.and_eq_true, decide_eq_true_eq] at hparams
  omega

/-- The 30 format cells in row-major order (R195). -/
def formatCells : List (Nat × Nat) :=
  ((List.range 21).product (List.range 21)).filter fun p => isFormat p.1 p.2

theorem mem_formatCells {p : Nat × Nat} : p ∈ formatCells ↔ isFormat p.1 p.2 = true := by
  obtain ⟨r, c⟩ := p
  simp only [formatCells, List.mem_filter, List.pair_mem_product, List.mem_range, and_iff_right_iff_imp]
  intro h
  have := bounds_of_isFormat h
  omega

theorem formatCells_length : formatCells.length = 30 := by decide +kernel

/-- The coordinates of CFG.FMTPOS are exactly the format cells: 30 distinct ones among 30 (R10, R195). -/
theorem mem_fmtPos {c : Config} (h : c.wf = true) {p : Nat × Nat} :
    p ∈ c.fmtPosA ++ c.fmtPosB ↔ isFormat p.1 p.2 = true := by
  obtain ⟨-, -, hf, -⟩ := checks_of_wf h
  simp only [Config.fmtPosWf, FMTBITS, Bool.and_eq_true, beq_iff_eq, decide_eq_true_eq, List.all_eq_true] at hf
  obtain ⟨⟨⟨hA, hB⟩, hall⟩, hnodup⟩ := hf
  have hsub : c.fmtPosA ++ c.fmtPosB ⊆ formatCells := fun q hq => mem_formatCells.mpr (hall q hq)
  have hlen : formatCells.length ≤ (c.fmtPosA ++ c.fmtPosB).length := by
    rw [formatCells_length, List.length_append, hA, hB]
  rw [← mem_formatCells]
  exact ((List.subperm_of_subset hnodup hsub).perm_of_length_le hlen).mem_iff

theorem fmtPos_lengths {c : Config} (h : c.wf = true) : c.fmtPosA.length = c.fmtPosB.length := by
  obtain ⟨-, -, hf, -⟩ := checks_of_wf h
  simp only [Config.fmtPosWf, Bool.and_eq_true, beq_iff_eq] at hf
  obtain ⟨⟨⟨hA, hB⟩, -⟩, -⟩ := hf
  rw [hA, hB]

/-! ## Writing format information (R264) -/

/-- The two cells that one bit of the format string is written to. -/
abbrev FormatPair := ((Nat × Nat) × (Nat × Nat)) × Nat

/-- The writes of one bit of the format string `f`. -/
def writePair (f : BitVec 15) (g : Grid) (p : FormatPair) : Grid :=
  (g.write p.1.1.1 p.1.1.2 (colourOf (formatBit f p.2))).write p.1.2.1 p.1.2.2 (colourOf (formatBit f p.2))

/-- The pairs of cells of CFG.FMTPOS, numbered (R263). -/
def formatPairs (c : Config) : List FormatPair := (List.zip c.fmtPosA c.fmtPosB).zipIdx

theorem writeFormat_eq_foldl (c : Config) (l : Level) (id : BitVec 3) (g : Grid) :
    writeFormat c l id g = (formatPairs c).foldl (writePair (formatString c l id)) g := rfl

/-- A cell that a pair names. -/
def FormatPair.names (p : FormatPair) (r c : Nat) : Prop := (r, c) = p.1.1 ∨ (r, c) = p.1.2

theorem names_formatPairs {cfg : Config} (h : cfg.wf = true) {r c : Nat} :
    (∃ p ∈ formatPairs cfg, FormatPair.names p r c) ↔ isFormat r c = true := by
  have hzip : ∀ q, (∃ p ∈ formatPairs cfg, p.1 = q) ↔ q ∈ List.zip cfg.fmtPosA cfg.fmtPosB := fun q => by
    rw [← List.mem_map, formatPairs, List.zipIdx_map_fst]
  have hlen := fmtPos_lengths h
  have hA : (r, c) ∈ cfg.fmtPosA ↔ ∃ q ∈ List.zip cfg.fmtPosA cfg.fmtPosB, q.1 = (r, c) := by
    rw [← List.mem_map, List.map_fst_zip hlen.le]
  have hB : (r, c) ∈ cfg.fmtPosB ↔ ∃ q ∈ List.zip cfg.fmtPosA cfg.fmtPosB, q.2 = (r, c) := by
    rw [← List.mem_map, List.map_snd_zip hlen.ge]
  rw [← mem_fmtPos h (p := (r, c)), List.mem_append, hA, hB]
  simp only [← hzip, FormatPair.names]
  constructor
  · rintro ⟨p, hp, e | e⟩
    · exact .inl ⟨p.1, ⟨p, hp, rfl⟩, e.symm⟩
    · exact .inr ⟨p.1, ⟨p, hp, rfl⟩, e.symm⟩
  · rintro (⟨_, ⟨p, hp, rfl⟩, e⟩ | ⟨_, ⟨p, hp, rfl⟩, e⟩)
    · exact ⟨p, hp, .inl e.symm⟩
    · exact ⟨p, hp, .inr e.symm⟩

/-- A pair that names format cells writes them and no other cell. -/
theorem read_writePair {f : BitVec 15} {g : Grid} {p : FormatPair}
    (hp : ∀ r c, p.names r c → isFormat r c = true) {r c : Nat} (hc : c ≤ 20) :
    (p.names r c → (writePair f g p).read r c = colourOf (formatBit f p.2)) ∧
    (¬ p.names r c → (writePair f g p).read r c = g.read r c) := by
  obtain ⟨⟨⟨ra, ca⟩, ⟨rb, cb⟩⟩, n⟩ := p
  obtain ⟨hra, hca⟩ := bounds_of_isFormat (hp ra ca (.inl rfl))
  obtain ⟨hrb, hcb⟩ := bounds_of_isFormat (hp rb cb (.inr rfl))
  simp only [FormatPair.names, writePair, Prod.mk.injEq,
    Grid.read_write_of_ne hra hca hc (colourOf_ne_unset _), Grid.read_write_of_ne hrb hcb hc (colourOf_ne_unset _)]
  by_cases hB : r = rb ∧ c = cb
  · simp [hB]
  · by_cases hA : r = ra ∧ c = ca
    · simp [hA]
    · simp [hB, hA]

/-- Writing pairs leaves every cell that none of them names. -/
theorem read_foldl_writePair {f : BitVec 15} {ps : List FormatPair} {g : Grid} {r c : Nat}
    (hps : ∀ p ∈ ps, ∀ r c, p.names r c → isFormat r c = true) (hc : c ≤ 20) (hn : ∀ p ∈ ps, ¬ p.names r c) :
    (ps.foldl (writePair f) g).read r c = g.read r c := by
  induction ps generalizing g with
  | nil => rfl
  | cons p ps ih =>
    rw [List.foldl_cons, ih (fun q hq => hps q (.tail _ hq)) fun q hq => hn q (.tail _ hq)]
    exact (read_writePair (hps p (.head _)) hc).2 (hn p (.head _))

/-- Writing pairs sets every cell that one of them names, and unsets none. -/
theorem read_foldl_writePair_ne_unset {f : BitVec 15} {ps : List FormatPair} {g : Grid} {r c : Nat}
    (hps : ∀ p ∈ ps, ∀ r c, p.names r c → isFormat r c = true) (hc : c ≤ 20)
    (hset : g.read r c ≠ .unset ∨ ∃ p ∈ ps, p.names r c) : (ps.foldl (writePair f) g).read r c ≠ .unset := by
  induction ps generalizing g with
  | nil => simpa using hset
  | cons p ps ih =>
    refine ih (fun q hq => hps q (.tail _ hq)) ?_
    obtain ⟨hwritten, hkept⟩ := read_writePair (f := f) (g := g) (hps p (.head _)) (r := r) hc
    by_cases hp : p.names r c
    · exact .inl (by rw [hwritten hp]; exact colourOf_ne_unset _)
    · refine hset.imp (fun hg => by rwa [hkept hp]) fun ⟨q, hq, hqn⟩ => ⟨q, ?_, hqn⟩
      exact (List.mem_cons.mp hq).resolve_left fun e => hp (e ▸ hqn)

section WriteFormat

variable {cfg : Config} (h : cfg.wf = true) (l : Level) (id : BitVec 3) (g : Grid) {r c : Nat}

include h

/-- `write_format` leaves every cell that is no format cell (R264, R266). -/
theorem read_writeFormat_of_not_format (hc : c ≤ 20) (hf : isFormat r c = false) :
    (writeFormat cfg l id g).read r c = g.read r c := by
  rw [writeFormat_eq_foldl]
  refine read_foldl_writePair (fun p hp r c hn => (names_formatPairs h).mp ⟨p, hp, hn⟩) hc fun p hp hn => ?_
  exact absurd ((names_formatPairs h).mp ⟨p, hp, hn⟩) (by simp [hf])

/-- `write_format` sets every format cell (R264, R266). -/
theorem read_writeFormat_of_format (hf : isFormat r c = true) : (writeFormat cfg l id g).read r c ≠ .unset := by
  rw [writeFormat_eq_foldl]
  exact read_foldl_writePair_ne_unset (fun p hp r c hn => (names_formatPairs h).mp ⟨p, hp, hn⟩)
    (bounds_of_isFormat hf).2 (.inr ((names_formatPairs h).mpr hf))

end WriteFormat

/-! ## What masks, format information and the selection leave -/

/-- Two grids with the same drawn cells whose data cells are set alike. -/
structure SameCells (g g' : Grid) : Prop where
  pattern : ∀ {r c}, r ≤ 20 → c ≤ 20 → isFunction r c = true → isFormat r c = false → g'.read r c = g.read r c
  data : ∀ {r c}, r ≤ 20 → c ≤ 20 → isFunction r c = false → (g'.read r c = .unset ↔ g.read r c = .unset)

theorem SameCells.refl (g : Grid) : SameCells g g := ⟨fun _ _ _ _ => rfl, fun _ _ _ => .rfl⟩

theorem SameCells.trans {g g' g'' : Grid} (h : SameCells g g') (h' : SameCells g' g'') : SameCells g g'' where
  pattern hr hc hn hf := (h'.pattern hr hc hn hf).trans (h.pattern hr hc hn hf)
  data hr hc hf := (h'.data hr hc hf).trans (h.data hr hc hf)

theorem flipModule_eq_unset {m : GridModule} : flipModule m = .unset ↔ m = .unset := by
  cases m <;> simp [flipModule]

/-- A mask writes no function cell (R232). -/
theorem read_applyMask_of_function (id : BitVec 3) (g : Grid) {r c : Nat} (hr : r ≤ 20) (hc : c ≤ 20)
    (hf : isFunction r c = true) : (applyMask id g).read r c = g.read r c := by
  simp [read_applyMask id g hr hc, hf]

theorem sameCells_applyMask (id : BitVec 3) (g : Grid) : SameCells g (applyMask id g) where
  pattern hr hc hn _ := read_applyMask_of_function id g hr hc hn
  data hr hc _ := by
    rw [read_applyMask id g hr hc]
    split
    · exact flipModule_eq_unset
    · exact .rfl

section Selection

variable {cfg : Config} (h : cfg.wf = true) (l : Level)

include h

theorem sameCells_writeFormat (id : BitVec 3) (g : Grid) : SameCells g (writeFormat cfg l id g) where
  pattern _ hc _ hf := read_writeFormat_of_not_format h l id g hc hf
  data {r c} _ hc hn := by
    have hf : isFormat r c = false := Bool.eq_false_iff.mpr fun hf => by simp [isFunction_of_isFormat hf] at hn
    rw [read_writeFormat_of_not_format h l id g hc hf]

theorem sameCells_trial (id : BitVec 3) (g : Grid) : SameCells g (trial cfg l id g).1 :=
  ((sameCells_applyMask id g).trans (sameCells_writeFormat h l id _)).trans (sameCells_applyMask id _)

theorem sameCells_selectStep (x : Selection) (id : BitVec 3) : SameCells x.g (selectStep cfg l x id).g := by
  have hg : (selectStep cfg l x id).g = (trial cfg l id x.g).1 := by
    simp only [selectStep]; split <;> rfl
  rw [hg]
  exact sameCells_trial h l id x.g

theorem sameCells_foldl_selectStep (ids : List (BitVec 3)) (x : Selection) :
    SameCells x.g (ids.foldl (selectStep cfg l) x).g := by
  induction ids generalizing x with
  | nil => exact .refl _
  | cons id ids ih => exact (sameCells_selectStep h l x id).trans (ih _)

/-- The selection leaves the drawn cells and unsets no data cell (R247). -/
theorem sameCells_select (g : Grid) : SameCells g (select cfg l g).g :=
  (((sameCells_trial h l 0 g).trans (sameCells_foldl_selectStep h l [1, 2, 3, 4, 5, 6, 7]
    ⟨(trial cfg l 0 g).1, 0, (trial cfg l 0 g).2⟩)).trans (sameCells_applyMask _ _)).trans
    (sameCells_writeFormat h l _ _)

/-- The selection leaves every format cell set (R247, R266). -/
theorem read_select_of_format (g : Grid) {r c : Nat} (hf : isFormat r c = true) :
    (select cfg l g).g.read r c ≠ .unset := read_writeFormat_of_format h l _ _ hf

end Selection

end Sys2Proof.Proofs

/-! # The zig-zag walk

The walk visits the cells in the order that `visitStep` numbers: each step visits the cell of its own number and the
advance moves to the next (R201 to R205). `Walking` is the relation between grid, cursor and bits consumed that every
step keeps; `Walked` is where the walk ends. -/

namespace Sys2Proof.Proofs

open Sys2Proof.Machine Sys2Proof.Safety

/-! ## The numbering of the cells (R201, R205) -/

/-- The two columns of a strip: neither is column 6, and they lie in the same strip (R201). -/
theorem strip_columns : ∀ zc : BitVec 5, stripColumns.contains zc = true →
    1 ≤ zc.toNat ∧ zc.toNat ≤ 20 ∧ zc.toNat ≠ 6 ∧ zc.toNat - 1 ≠ 6 ∧ stripIndex (zc.toNat - 1) = stripIndex zc.toNat ∧
      leftColumn zc.toNat = false ∧ leftColumn (zc.toNat - 1) = true := by decide

/-- A column is known by its strip and its side of the strip (R201). -/
theorem column_eq : ∀ c ≤ 20, c ≠ 6 →
    c = (if stripIndex c < 7 then 20 - 2 * stripIndex c else 19 - 2 * stripIndex c) - (leftColumn c).toNat := by decide

/-- The strip to the left is the next one walked (R201, R204). -/
theorem stripIndex_next : ∀ zc : BitVec 5, stripColumns.contains zc = true → zc ≠ 1 →
    stripIndex (if zc - 2 = 6 then 5 else zc - 2).toNat = stripIndex zc.toNat + 1 := by decide

theorem visitStep_lt {r c : Nat} (hr : r ≤ 20) : visitStep r c < 420 := by
  have hS : stripIndex c ≤ 9 := by simp only [stripIndex]; split <;> omega
  have hL := Bool.toNat_le (leftColumn c)
  simp only [visitStep]
  split <;> omega

/-- No two cells off column 6 are visited at the same step (R201, R205). -/
theorem visitStep_injective {r c r' c' : Nat} (hr : r ≤ 20) (hc : c ≤ 20) (h6 : c ≠ 6) (hr' : r' ≤ 20) (hc' : c' ≤ 20)
    (h6' : c' ≠ 6) (h : visitStep r c = visitStep r' c') : r = r' ∧ c = c' := by
  have row : ∀ {r c}, r ≤ 20 → (if stripUp c then 20 - r else r) ≤ 20 := fun hr => by split <;> omega
  have hrow := row (c := c) hr
  have hrow' := row (c := c') hr'
  have hL := Bool.toNat_le (leftColumn c)
  have hL' := Bool.toNat_le (leftColumn c')
  simp only [visitStep] at h
  have hS : stripIndex c = stripIndex c' := by omega
  have hR : (if stripUp c then 20 - r else r) = if stripUp c' then 20 - r' else r' := by omega
  have hside : (leftColumn c).toNat = (leftColumn c').toNat := by omega
  constructor
  · have hup : stripUp c = stripUp c' := by simp only [stripUp, hS]
    rw [hup] at hR
    split at hR <;> omega
  · rw [column_eq c hc h6, column_eq c' hc' h6', hS, hside]

/-- Two counts over a list without repetition that differ at one element alone. -/
theorem countP_of_eq_off {as : List Nat} (hn : as.Nodup) {k : Nat} (hk : k ∈ as) {p q : Nat → Bool} {b : Bool}
    (hpk : p k = false) (hqk : q k = b) (hpq : ∀ a ∈ as, a ≠ k → q a = p a) : as.countP q = as.countP p + b.toNat := by
  have hrest : (as.erase k).countP q = (as.erase k).countP p := List.countP_congr fun a ha => by
    obtain ⟨hne, hmem⟩ := hn.mem_erase_iff.mp ha
    rw [hpq a hmem hne]
  have hperm := List.perm_cons_erase hk
  rw [hperm.countP_eq q, hperm.countP_eq p, List.countP_cons, List.countP_cons, hrest, hpk, hqk]
  cases b <;> rfl

/-- The cell of address `a` is a data cell visited before step n (R205). -/
def visitedData (n a : Nat) : Bool :=
  !isFunction (a / 21) (a % 21) && a % 21 != 6 && visitStep (a / 21) (a % 21) < n

theorem dataVisited_eq (n : Nat) : dataVisited n = (List.range 441).countP (visitedData n) := rfl

/-- One step later the cells counted are the same, but for the cell of that step. -/
theorem visitedData_succ {r c a : Nat} (hr : r ≤ 20) (hc : c ≤ 20) (h6 : c ≠ 6) (ha : a ∈ List.range 441)
    (hne : a ≠ 21 * r + c) : visitedData (visitStep r c + 1) a = visitedData (visitStep r c) a := by
  have ha := List.mem_range.mp ha
  by_cases ha6 : a % 21 = 6
  · simp [visitedData, ha6]
  · have hv : visitStep (a / 21) (a % 21) ≠ visitStep r c := fun hv => by
      have := visitStep_injective (by omega) (by omega) ha6 hr hc h6 hv
      omega
    simp only [visitedData, Nat.lt_succ_iff_lt_or_eq, hv, or_false]

/-- With the cell of step n, one more data cell has been visited if that cell is one (R205). -/
theorem dataVisited_succ {r c : Nat} (hr : r ≤ 20) (hc : c ≤ 20) (h6 : c ≠ 6) :
    dataVisited (visitStep r c + 1) = dataVisited (visitStep r c) + (!isFunction r c).toNat := by
  have hdiv : (21 * r + c) / 21 = r := by omega
  have hmod : (21 * r + c) % 21 = c := by omega
  have before : visitedData (visitStep r c) (21 * r + c) = false := by simp [visitedData, hdiv, hmod]
  have after : visitedData (visitStep r c + 1) (21 * r + c) = !isFunction r c := by
    simp [visitedData, hdiv, hmod, h6]
  rw [dataVisited_eq, dataVisited_eq]
  exact countP_of_eq_off List.nodup_range (List.mem_range.mpr (by omega)) before after
    fun a ha => visitedData_succ hr hc h6 ha

theorem dataVisited_zero : dataVisited 0 = 0 := by simp [dataVisited_eq, visitedData]

/-- The data cells are 208 (R197, R205). -/
theorem dataVisited_walk : dataVisited 420 = 208 := by decide +kernel

/-! ## Where the cursor stands -/

section Cursor

variable {k : Cursor}

theorem bounds_of_onPath (h : k.onPath = true) : k.zr.toNat ≤ 20 ∧ stripColumns.contains k.zc = true := by
  simpa [Cursor.onPath] using h

/-- The cursor's cell is in the grid and off column 6. -/
theorem column_bounds (h : k.onPath = true) : k.column ≤ 20 ∧ k.column ≠ 6 := by
  obtain ⟨-, hle, h6, h6', -⟩ := strip_columns k.zc (bounds_of_onPath h).2
  cases hk : k.zk <;> simp [Cursor.column, hk] <;> omega

/-- The cursor is on its path, in the direction of its strip (R201). -/
def Upright (k : Cursor) : Prop := k.onPath = true ∧ k.zup = stripUp k.zc.toNat

/-- The number of the cursor's cell by strip, row and column of the strip (R205). -/
def pathNumber (k : Cursor) : Nat :=
  42 * stripIndex k.zc.toNat + 2 * (if k.zup then 20 - k.zr.toNat else k.zr.toNat) + k.zk.toNat

theorem stepsTaken_eq_pathNumber (h : Upright k) : stepsTaken k = pathNumber k := by
  obtain ⟨hp, hup⟩ := h
  obtain ⟨-, -, -, -, hleft, hr, hl⟩ := strip_columns k.zc (bounds_of_onPath hp).2
  cases hk : k.zk with
  | false => simp [stepsTaken, visitStep, pathNumber, Cursor.column, hk, hr, hup]
  | true => simp [stepsTaken, visitStep, pathNumber, Cursor.column, hk, hl, hleft, hup, stripUp]

end Cursor

/-- The number of a cell does not depend on the bits consumed. -/
theorem stepsTaken_zn (k : Cursor) (n : BitVec 8) : stepsTaken { k with zn := n } = stepsTaken k := rfl

/-! ## The advance by number (R204, R205) -/

/-- The walk goes on: the cursor has moved to the cell of the next number and consumed nothing. -/
def GoesOn (x y : Walk) : Prop :=
  y.zst = x.zst ∧ Upright y.cur ∧ y.cur.zn = x.cur.zn ∧ stepsTaken y.cur = stepsTaken x.cur + 1

/-- The walk ends: the cursor stood at the last cell and is now where R205 says. -/
def Ends (x y : Walk) : Prop :=
  y.zst = .done ∧ stepsTaken x.cur = 419 ∧ y.cur = { zc := 1, zr := 20, zk := false, zup := true, zn := x.cur.zn }

theorem goesOn_of_advance {x : Walk} {k : Cursor} (h : Upright x.cur) (hadv : zzAdvance x = { x with cur := k })
    (hup : k.zup = stripUp k.zc.toNat) (hzn : k.zn = x.cur.zn) (hnum : pathNumber k = pathNumber x.cur + 1) :
    GoesOn x (zzAdvance x) := by
  have hp := zzAdvance_onPath h.1
  rw [hadv] at hp ⊢
  have hk : Upright k := ⟨hp, hup⟩
  refine ⟨rfl, hk, hzn, ?_⟩
  rw [stepsTaken_eq_pathNumber hk, stepsTaken_eq_pathNumber h, hnum]

/-- From the right cell to the left cell, or along the strip, the walk goes on. -/
theorem goesOn_inside {x : Walk} (h : Upright x.cur) (hb : ¬ x.cur.atBoundary) : GoesOn x (zzAdvance x) := by
  have hrow := (bounds_of_onPath h.1).1
  cases hk : x.cur.zk with
  | false => exact goesOn_of_advance h (zzAdvance_left hk) h.2 rfl (by simp [pathNumber, hk])
  | true =>
    cases hu : x.cur.zup with
    | true =>
      have h0 : 0 < x.cur.zr.toNat := Nat.pos_of_ne_zero fun h0 => hb ⟨hk, .inl ⟨hu, h0⟩⟩
      refine goesOn_of_advance h (zzAdvance_up hk hu h0) h.2 rfl ?_
      simp [pathNumber, hu, hk]
      bv_omega
    | false =>
      have h20 : x.cur.zr.toNat < 20 := Nat.lt_of_not_le fun hge => hb ⟨hk, .inr ⟨hu, hge⟩⟩
      refine goesOn_of_advance h (zzAdvance_down hk hu h20) h.2 rfl ?_
      simp [pathNumber, hu, hk]
      bv_omega

/-- At the end of a strip that is not the last, the walk goes on into the next strip, turned round. -/
theorem goesOn_strip {x : Walk} (h : Upright x.cur) (hb : x.cur.atBoundary) (h1 : x.cur.zc ≠ 1) :
    GoesOn x (zzAdvance x) := by
  obtain ⟨hrow, hc⟩ := bounds_of_onPath h.1
  have hS := stripIndex_next x.cur.zc hc h1
  have hturn : (!x.cur.zup) = stripUp (if x.cur.zc - 2 = 6 then 5 else x.cur.zc - 2).toNat := by
    rw [h.2]; simp only [stripUp, hS]; grind
  refine goesOn_of_advance h (zzAdvance_strip hb h1) hturn rfl ?_
  obtain ⟨hk, ⟨hu, h0⟩ | ⟨hu, h20⟩⟩ := hb
  · simp only [pathNumber, hS, hk, hu, h0]; simp; omega
  · simp only [pathNumber, hS, hk, hu]; simp; omega

/-- At the end of the last strip the walk ends. -/
theorem ends_of_last {x : Walk} (h : Upright x.cur) (hb : x.cur.atBoundary) (h1 : x.cur.zc = 1) :
    Ends x (zzAdvance x) := by
  have hdown : x.cur.zup = false := by rw [h.2, h1]; decide
  have hrow : x.cur.zr = 20 := by
    obtain ⟨-, ⟨hu, -⟩ | ⟨-, h20⟩⟩ := hb
    · simp [hu] at hdown
    · exact BitVec.eq_of_toNat_eq (Nat.le_antisymm (bounds_of_onPath h.1).1 h20)
  have hS : stripIndex (BitVec.toNat (1 : BitVec 5)) = 9 := by decide
  rw [zzAdvance_done hb h1]
  refine ⟨rfl, ?_, by simp only [h1, hrow, hdown, Bool.not_false]⟩
  rw [stepsTaken_eq_pathNumber h, pathNumber, hdown, hb.1, hrow, h1, hS]; rfl

/-- The advance goes on or ends. -/
theorem zzAdvance_next {x : Walk} (h : Upright x.cur) : GoesOn x (zzAdvance x) ∨ Ends x (zzAdvance x) := by
  by_cases hb : x.cur.atBoundary
  · by_cases h1 : x.cur.zc = 1
    · exact .inr (ends_of_last h hb h1)
    · exact .inl (goesOn_strip h hb h1)
  · exact .inl (goesOn_inside h hb)

/-! ## The walk's invariant (R202 to R206) -/

/-- The writer runs over a bit string of `tot` bits: the data cells set are those numbered below the cursor's, and ZN
counts the bits they took. -/
structure Walking (tot : Nat) (x : Walk) : Prop where
  gridWf : Memory.wf x.g = true
  running : x.zst = .run
  upright : Upright x.cur
  consumed : x.cur.zn.toNat = min tot (dataVisited (stepsTaken x.cur))
  dataCells : ∀ r c, r ≤ 20 → c ≤ 20 → isFunction r c = false →
    (x.g.read r c ≠ .unset ↔ visitStep r c < stepsTaken x.cur)

/-- The walk has ended: every data cell is set and the cursor is where R205 says. -/
structure Walked (tot : Nat) (x : Walk) : Prop where
  gridWf : Memory.wf x.g = true
  finished : x.zst = .done
  cursor : ∃ zn : BitVec 8, zn.toNat = tot ∧ x.cur = { zc := 1, zr := 20, zk := false, zup := true, zn := zn }
  dataCells : ∀ r c, r ≤ 20 → c ≤ 20 → isFunction r c = false → x.g.read r c ≠ .unset

/-- The visit writes one colour into one data cell, or nothing; a bit is consumed only with a write (R203, R206). -/
theorem zzVisit_next {bits : List Bool} {x : Walk} :
    (zzVisit bits x = x ∧
      (isFunction x.cur.zr.toNat x.cur.column = true ∨ x.g.read x.cur.zr.toNat x.cur.column ≠ .unset)) ∨
    (isFunction x.cur.zr.toNat x.cur.column = false ∧ ∃ m, m ≠ .unset ∧
      zzVisit bits x = { x with
        g := x.g.write x.cur.zr.toNat x.cur.column m
        cur := { x.cur with zn := if x.cur.zn.toNat < bits.length then x.cur.zn + 1 else x.cur.zn } }) := by
  by_cases hskip : isFunction x.cur.zr.toNat x.cur.column = true ∨ x.g.read x.cur.zr.toNat x.cur.column ≠ .unset
  · exact .inl ⟨zzVisit_skips hskip, hskip⟩
  · obtain ⟨hf, hu⟩ := not_or.mp hskip
    have hf := Bool.eq_false_iff.mpr hf
    have hu := not_not.mp hu
    refine .inr ⟨hf, ?_⟩
    cases hb : bits[x.cur.zn.toNat]? with
    | some b =>
      refine ⟨colourOf b, colourOf_ne_unset b, ?_⟩
      rw [zzVisit_takes hf hu hb, if_pos (List.getElem?_eq_some_iff.mp hb).1]
    | none =>
      refine ⟨.light, by simp, ?_⟩
      rw [zzVisit_remainder hf hu hb, if_neg (Nat.not_lt.mpr (List.getElem?_eq_none_iff.mp hb))]

section Step

variable {tot : Nat} {bits : List Bool} {x : Walk}

/-- No step writes a function cell (R203). -/
theorem read_zzStep_of_function (hp : x.cur.onPath = true) {r c : Nat} (hc : c ≤ 20) (hf : isFunction r c = true) :
    (zzStep bits x).g.read r c = x.g.read r c := by
  rw [zzStep, zzAdvance_g]
  obtain ⟨he, -⟩ | ⟨hn, m, hm, he⟩ := zzVisit_next (bits := bits) (x := x)
  · rw [he]
  · rw [he, Grid.read_write_of_ne (bounds_of_onPath hp).1 (column_bounds hp).1 hc hm, if_neg]
    rintro ⟨rfl, rfl⟩
    simp [hf] at hn

/-- After the visit the data cells set are those numbered up to the cursor's. -/
theorem Walking.dataCells_zzVisit (h : Walking tot x) {r c : Nat} (hr : r ≤ 20) (hc : c ≤ 20)
    (hf : isFunction r c = false) :
    (zzVisit bits x).g.read r c ≠ .unset ↔ visitStep r c < stepsTaken x.cur + 1 := by
  obtain ⟨hp, -⟩ := h.upright
  have hrow := (bounds_of_onPath hp).1
  obtain ⟨hcol, h6⟩ := column_bounds hp
  have hc6 : c ≠ 6 := fun e => by simp [e, isFunction_column_six] at hf
  have hcell : visitStep r c = stepsTaken x.cur ↔ r = x.cur.zr.toNat ∧ c = x.cur.column :=
    ⟨visitStep_injective hr hc hc6 hrow hcol h6, fun ⟨hr, hc⟩ => by rw [hr, hc, stepsTaken]⟩
  have hold := h.dataCells r c hr hc hf
  obtain ⟨he, hskip⟩ | ⟨-, m, hm, he⟩ := zzVisit_next (bits := bits) (x := x)
  · rw [he, hold]
    have hne : visitStep r c ≠ stepsTaken x.cur := fun e => by
      obtain ⟨rfl, rfl⟩ := hcell.mp e
      exact hskip.elim (by simp [hf]) fun hs => Nat.lt_irrefl _ (hold.mp hs)
    omega
  · rw [he, Grid.read_write_of_ne hrow hcol hc hm]
    by_cases hat : r = x.cur.zr.toNat ∧ c = x.cur.column
    · simp only [if_pos hat, ne_eq, hm, not_false_eq_true, true_iff]
      exact Nat.lt_succ_of_le (hcell.mpr hat).le
    · rw [if_neg hat, hold]
      have := mt hcell.mp hat
      omega

/-- After the visit ZN counts the bits taken up to the cursor's cell. -/
theorem Walking.consumed_zzVisit (h : Walking tot x) (hbits : bits.length = tot) (htot : tot ≤ 208) :
    (zzVisit bits x).cur.zn.toNat = min tot (dataVisited (stepsTaken x.cur + 1)) := by
  obtain ⟨hp, -⟩ := h.upright
  have hrow := (bounds_of_onPath hp).1
  obtain ⟨hcol, h6⟩ := column_bounds hp
  have hold := h.consumed
  have hsucc : dataVisited (stepsTaken x.cur + 1) =
      dataVisited (stepsTaken x.cur) + (!isFunction x.cur.zr.toNat x.cur.column).toNat := by
    rw [stepsTaken]; exact dataVisited_succ hrow hcol h6
  have hdata := h.dataCells _ _ hrow hcol
  generalize dataVisited (stepsTaken x.cur + 1) = after at hsucc ⊢
  generalize dataVisited (stepsTaken x.cur) = before at hsucc hold
  obtain ⟨he, hskip⟩ | ⟨hf, m, -, he⟩ := zzVisit_next (bits := bits) (x := x)
  · have hf : isFunction x.cur.zr.toNat x.cur.column = true := by
      by_contra hf
      have hf := Bool.eq_false_iff.mpr hf
      exact hskip.elim (by simp [hf]) fun hset => Nat.lt_irrefl _ ((hdata hf).mp hset)
    have hsame : after = before := by simp [hsucc, hf]
    rw [he, hold, hsame]
  · have hmore : after = before + 1 := by simp [hsucc, hf]
    rw [he, hmore, hbits]
    dsimp only
    split <;> bv_omega

/-- One step goes on with the walk or ends it (R204, R205). -/
theorem Walking.zzStep (h : Walking tot x) (hbits : bits.length = tot) (htot : tot ≤ 208) :
    Walking tot (zzStep bits x) ∨ Walked tot (zzStep bits x) := by
  obtain ⟨hzst, hcur⟩ := zzVisit_place bits x
  have hsteps : stepsTaken (zzVisit bits x).cur = stepsTaken x.cur := by rw [hcur, stepsTaken_zn]
  have hup : Upright (zzVisit bits x).cur := by rw [hcur]; exact h.upright
  have hwf := zzStep_wf bits x h.gridWf
  have hdata := fun r c hr hc hf => h.dataCells_zzVisit (bits := bits) (r := r) (c := c) hr hc hf
  have hzn := h.consumed_zzVisit hbits htot
  obtain ⟨hz, hup', hn, hs⟩ | ⟨hz, hs, hc⟩ := zzAdvance_next hup
  · refine .inl ⟨hwf, hz.trans (hzst.trans h.running), hup', ?_, ?_⟩
    · rw [Machine.zzStep, hn, hs, hsteps, hzn]
    · intro r c hr hc hf
      rw [Machine.zzStep, zzAdvance_g, hs, hsteps]
      exact hdata r c hr hc hf
  · have hlast : stepsTaken x.cur + 1 = 420 := by rw [← hsteps, hs]
    refine .inr ⟨hwf, hz, ⟨_, ?_, hc⟩, ?_⟩
    · rw [hzn, hlast, dataVisited_walk, min_eq_left htot]
    · intro r c hr hc hf
      rw [Machine.zzStep, zzAdvance_g]
      exact (hdata r c hr hc hf).mpr (hlast ▸ visitStep_lt hr)

/-- Any number of steps goes on with the walk or ends it; function cells are as before (R211). -/
theorem Walking.zzRun (h : Walking tot x) (hbits : bits.length = tot) (htot : tot ≤ 208) (fuel : Nat) :
    (Walking tot (zzRun bits fuel x) ∨ Walked tot (zzRun bits fuel x)) ∧
    ∀ r c, c ≤ 20 → isFunction r c = true → (zzRun bits fuel x).g.read r c = x.g.read r c := by
  induction fuel generalizing x with
  | zero => exact ⟨.inl h, fun _ _ _ _ => rfl⟩
  | succ fuel ih =>
    have hrun : Machine.zzRun bits (fuel + 1) x = Machine.zzRun bits fuel (Machine.zzStep bits x) :=
      if_neg (by simp [h.running])
    have hframe := fun r c hc hf => read_zzStep_of_function (bits := bits) h.upright.1 (r := r) (c := c) hc hf
    rw [hrun]
    obtain hgo | hend := h.zzStep hbits htot
    · obtain ⟨hw, hread⟩ := ih hgo
      exact ⟨hw, fun r c hc hf => (hread r c hc hf).trans (hframe r c hc hf)⟩
    · have hstop : Machine.zzRun bits fuel (Machine.zzStep bits x) = Machine.zzStep bits x := by
        cases fuel with
        | zero => rfl
        | succ fuel => exact if_pos hend.finished
      rw [hstop]
      exact ⟨.inr hend, hframe⟩

end Step

/-- ZZINIT's cursor is on its path, at the first cell (R202, R209). -/
theorem upright_start : Upright Cursor.start := by unfold Upright; decide

theorem stepsTaken_start : stepsTaken Cursor.start = 0 := by decide

end Sys2Proof.Proofs

/-! # The invariants of the state by part

`Inv` speaks of every register at once, and each command writes few. So the invariant is cut into four parts, each a
predicate on a view of the state: a record of the registers and flags the part speaks of. A command that leaves a view
keeps its part; a command that changes a view is treated field by field, and only there. -/

namespace Sys2Proof.Proofs

open Sys2Proof.Machine Sys2Proof.Safety

/-! ## The flags as functions of STATUS -/

/-- A flag of a value of STATUS (R29). -/
def statusFlag (status : BitVec 16) (f : Flag) : Bool := status.getLsbD f.bit

theorem flag_eq_statusFlag (s : State) (f : Flag) : s.flag f = statusFlag s.status f := rfl

@[simp] theorem statusFlag_statusWith (status : BitVec 16) (f g : Flag) :
    statusFlag (statusWith status f) g = (statusFlag status g || decide (g = f)) := by
  simp [statusFlag, statusWith_getLsbD, Flag.bit_injective.eq_iff, Bool.beq_eq_decide_eq]

/-- The reserved bits of a value of STATUS (R29). -/
def reservedBits (status : BitVec 16) : Bool × Bool := (status.getLsbD 13, status.getLsbD 14)

@[simp] theorem reservedBits_statusWith (status : BitVec 16) (f : Flag) :
    reservedBits (statusWith status f) = reservedBits status := by
  have h13 : (13 == f.bit) = false := by cases f <;> rfl
  have h14 : (14 == f.bit) = false := by cases f <;> rfl
  simp only [reservedBits, statusWith_getLsbD, h13, h14, Bool.or_false]

/-! ## The four views -/

/-- ERR, ERRCMD and the bits of STATUS that belong to no product. -/
structure ErrorView where
  err : BitVec 4
  errcmd : Word
  fault : Bool
  reserved : Bool × Bool

/-- The message and what BSMODE, BSCHK and BSASM make of it. -/
structure MessageView where
  cfg : Config
  level : Option Level
  mode : Option Mode
  msglen : BitVec 8
  reqbits : Option (BitVec 16)
  bitlen : Option (BitVec 8)
  msg : List CodePoint
  bits : List Bool
  lvlv : Bool
  modev : Bool
  chkv : Bool
  asmv : Bool
  padv : Bool
  raw : Bool

/-- The codewords and the generator polynomial. -/
structure CodewordView where
  cfg : Config
  level : Option Level
  bitlen : Option (BitVec 8)
  dlen : BitVec 5
  elen : BitVec 5
  gendeg : Option (BitVec 5)
  dcw : List Byte
  ecw : List Byte
  gen : Option (List Byte)
  modev : Bool
  dcwv : Bool
  genv : Bool
  ecwv : Bool
  padv : Bool
  raw : Bool

/-- The grid, the writer and the selection. -/
structure GridView where
  g : Grid
  zst : ZState
  cursor : Option Cursor
  tot : Nat
  mskpar : BitVec 8
  best : Option (BitVec 3)
  bestpen : Option Word
  lvlv : Bool
  ecwv : Bool
  fpv : Bool
  plv : Bool
  fmtv : Bool
  done : Bool

/-- The view of errors that a state gives. -/
def errorView (s : State) : ErrorView where
  err := s.err
  errcmd := s.errcmd
  fault := s.flag .fault
  reserved := reservedBits s.status

/-- The view of the message that a state gives. -/
def messageView (s : State) : MessageView where
  cfg := s.cfg
  level := s.level
  mode := s.mode
  msglen := s.msglen
  reqbits := s.reqbits
  bitlen := s.bitlen
  msg := s.msg
  bits := s.bits
  lvlv := s.flag .lvlv
  modev := s.flag .modev
  chkv := s.flag .chkv
  asmv := s.flag .asmv
  padv := s.flag .padv
  raw := s.flag .raw

/-- The view of the codewords that a state gives. -/
def codewordView (s : State) : CodewordView where
  cfg := s.cfg
  level := s.level
  bitlen := s.bitlen
  dlen := s.dlen
  elen := s.elen
  gendeg := s.gendeg
  dcw := s.dcw
  ecw := s.ecw
  gen := s.gen
  modev := s.flag .modev
  dcwv := s.flag .dcwv
  genv := s.flag .genv
  ecwv := s.flag .ecwv
  padv := s.flag .padv
  raw := s.flag .raw

/-- The view of the grid that a state gives. -/
def gridView (s : State) : GridView where
  g := s.g
  zst := s.zst
  cursor := s.cursor
  tot := totBits s
  mskpar := s.mskpar
  best := s.best
  bestpen := s.bestpen
  lvlv := s.flag .lvlv
  ecwv := s.flag .ecwv
  fpv := s.flag .fpv
  plv := s.flag .plv
  fmtv := s.flag .fmtv
  done := s.flag .done

/-! ## The four parts -/

/-- The fields of `Inv` about errors. -/
structure ErrorPart (v : ErrorView) : Prop where
  faultIff : v.fault = true ↔ v.err ≠ 0
  errLegal : v.err.toNat ≤ 8
  errcmdZero : v.err = 0 → v.errcmd = 0
  reservedZero : v.reserved = (false, false)

/-- The fields of `Inv` about the message. -/
structure MessagePart (v : MessageView) : Prop where
  levelHeld : v.level.isSome = v.lvlv
  modeHeld : v.mode.isSome = v.modev
  reqbitsHeld : v.reqbits.isSome = v.chkv
  bitlenHeld : v.bitlen.isSome = v.asmv
  msgLength : v.msg.length = v.msglen.toNat
  bitsLength : ∀ n, v.bitlen = some n → v.bits.length = n.toNat
  msgRange : v.msglen.toNat ≤ v.cfg.msgMax
  cpRange : ∀ cp ∈ v.msg, cp.toNat ≤ v.cfg.cpMax
  checkedHasMode : v.chkv = true → v.modev = true
  modeHasLevel : v.modev = true → v.lvlv = true ∧ v.raw = false
  paddedAssembled : v.padv = true → v.asmv = true
  assembledChecked : v.asmv = true → v.chkv = true
  modeValue : ∀ m, v.mode = some m → m = detectMode v.cfg v.msg ∧ (m = .byte → checkBytes v.msg = true)
  reqValue : ∀ q m l, v.reqbits = some q → v.mode = some m → v.level = some l →
    q.toNat = requiredBits m v.msg.length ∧ q.toNat ≤ capBits v.cfg l
  bitlenValue : v.padv = false → ∀ n q, v.bitlen = some n → v.reqbits = some q → n.toNat = q.toNat

/-- The fields of `Inv` about the codewords. -/
structure CodewordPart (v : CodewordView) : Prop where
  genHeld : v.gendeg.isSome = v.genv ∧ v.gen.isSome = v.genv
  dcwLength : v.dcw.length = v.dlen.toNat
  ecwLength : v.ecw.length = v.elen.toNat
  dlenRange : v.dlen.toNat ≤ 25
  padded : v.padv = true → v.dcwv = true ∧ (∀ l, v.level = some l → v.dlen.toNat = v.cfg.cap.get l) ∧
    (∀ n, v.bitlen = some n → n.toNat = 8 * v.dlen.toNat)
  pushed : v.raw = true → v.dcwv = true ∧ 1 ≤ v.dlen.toNat ∧ v.modev = false
  dataFrom : v.dcwv = true → (v.padv = true ∨ v.raw = true) ∧ 1 ≤ v.dlen.toNat
  noData : v.dcwv = false → v.dlen = 0
  encoded : v.ecwv = true → v.dcwv = true ∧ v.genv = true ∧ v.gendeg = some v.elen ∧
    v.dlen.toNat + v.elen.toNat ≤ 26
  notEncoded : v.ecwv = false → v.elen = 0
  genValue : ∀ n, v.gendeg = some n → 1 ≤ n.toNat ∧ n.toNat ≤ 25 ∧ v.gen = some (rsGen v.cfg.log1 n.toNat)
  ecwValue : v.ecwv = true → v.ecw = rsEncode v.cfg.log1 v.dcw v.elen.toNat

/-- Whether the walk has visited data cell (r, c), by the writer's state and cursor (R202, R205). -/
def visitedBy (zst : ZState) (cursor : Option Cursor) (r c : Nat) : Bool :=
  match zst, cursor with
  | .run, some k => visitStep r c < stepsTaken k
  | .done, _ => true
  | _, _ => false

theorem visited_eq (s : State) (r c : Nat) : visited s r c = visitedBy s.zst s.cursor r c := rfl

@[simp] theorem visitedBy_idle (cursor : Option Cursor) (r c : Nat) : visitedBy .idle cursor r c = false := rfl

@[simp] theorem visitedBy_run (k : Cursor) (r c : Nat) :
    visitedBy .run (some k) r c = decide (visitStep r c < stepsTaken k) := rfl

@[simp] theorem visitedBy_done (cursor : Option Cursor) (r c : Nat) : visitedBy .done cursor r c = true := rfl

/-- The fields of `Inv` about the grid and the writer. -/
structure GridPart (v : GridView) : Prop where
  bestHeld : v.best.isSome = v.done ∧ v.bestpen.isSome = v.done
  cursorHeld : v.cursor.isSome = (v.zst != .idle)
  started : v.zst ≠ .idle → v.fpv = true ∧ v.ecwv = true
  placed : v.plv = true ↔ v.zst = .done
  selected : v.done = true → v.plv = true ∧ v.lvlv = true ∧ v.fmtv = true ∧
    (∀ b, v.best = some b → v.mskpar = 1#8 <<< b.toNat)
  formatted : v.fmtv = true → v.plv = true ∧ v.lvlv = true
  masked : v.mskpar ≠ 0 → v.plv = true
  gridWf : Memory.wf v.g = true
  drawn : v.fpv = true → ∀ r c m, r ≤ 20 → c ≤ 20 → drawnAt r c = some m → v.g.read r c = m
  blank : v.fpv = false → v.g = []
  dataCells : ∀ r c, r ≤ 20 → c ≤ 20 → isFunction r c = false →
    (v.g.read r c ≠ .unset ↔ visitedBy v.zst v.cursor r c = true)
  formatCells : ∀ r c, r ≤ 20 → c ≤ 20 → isFormat r c = true → (v.g.read r c ≠ .unset ↔ v.fmtv = true)
  cursorRun : v.zst = .run → ∀ k, v.cursor = some k → k.onPath = true ∧ k.zup = stripUp k.zc.toNat ∧
    k.zn.toNat = min v.tot (dataVisited (stepsTaken k))
  cursorDone : v.zst = .done → ∀ k, v.cursor = some k → k.zc = 1 ∧ k.zr = 20 ∧ k.zk = false ∧ k.zup = true ∧
    k.zn.toNat = v.tot

/-- The four parts of `Inv`, with the premises on CFG. -/
structure Parts (s : State) : Prop where
  cfgWf : s.cfg.wf = true
  error : ErrorPart (errorView s)
  message : MessagePart (messageView s)
  codeword : CodewordPart (codewordView s)
  grid : GridPart (gridView s)

theorem Parts.of_inv {s : State} (h : Inv s) : Parts s where
  cfgWf := h.cfgWf
  error :=
    { faultIff := h.faultIff, errLegal := h.errLegal, errcmdZero := h.errcmdZero
      reservedZero := Prod.ext h.reservedZero.1 h.reservedZero.2 }
  message :=
    { levelHeld := h.levelHeld, modeHeld := h.modeHeld, reqbitsHeld := h.reqbitsHeld, bitlenHeld := h.bitlenHeld
      msgLength := h.lengths.1, bitsLength := h.lengths.2.2.2, msgRange := h.ranges.1, cpRange := h.ranges.2.1
      checkedHasMode := h.order2.1, modeHasLevel := h.order2.2
      paddedAssembled := h.order3.1, assembledChecked := h.order3.2
      modeValue := h.modeValue, reqValue := h.reqValue, bitlenValue := h.bitlenValue }
  codeword :=
    { genHeld := h.genHeld, dcwLength := h.lengths.2.1, ecwLength := h.lengths.2.2.1, dlenRange := h.ranges.2.2
      padded := h.order4, pushed := h.order5, dataFrom := h.dataFrom.1, noData := h.dataFrom.2
      encoded := h.order6.1, notEncoded := h.order6.2, genValue := h.genValue, ecwValue := h.ecwValue }
  grid :=
    { bestHeld := h.bestHeld, cursorHeld := h.cursorHeld, started := h.order7, placed := h.order8
      selected := h.order9, formatted := h.afterPlacement.1, masked := h.afterPlacement.2, gridWf := h.gridWf
      drawn := h.drawn.1, blank := h.drawn.2
      dataCells := fun r c hr hc hf => visited_eq s r c ▸ h.dataCells r c hr hc hf
      formatCells := h.formatCells, cursorRun := h.cursorRun, cursorDone := h.cursorDone }

theorem Parts.inv {s : State} (h : Parts s) : Inv s where
  cfgWf := h.cfgWf
  faultIff := h.error.faultIff
  errLegal := h.error.errLegal
  errcmdZero := h.error.errcmdZero
  reservedZero := Prod.ext_iff.mp h.error.reservedZero
  levelHeld := h.message.levelHeld
  modeHeld := h.message.modeHeld
  reqbitsHeld := h.message.reqbitsHeld
  bitlenHeld := h.message.bitlenHeld
  genHeld := h.codeword.genHeld
  bestHeld := h.grid.bestHeld
  cursorHeld := h.grid.cursorHeld
  lengths := ⟨h.message.msgLength, h.codeword.dcwLength, h.codeword.ecwLength, h.message.bitsLength⟩
  ranges := ⟨h.message.msgRange, h.message.cpRange, h.codeword.dlenRange⟩
  order2 := ⟨h.message.checkedHasMode, h.message.modeHasLevel⟩
  order3 := ⟨h.message.paddedAssembled, h.message.assembledChecked⟩
  order4 := h.codeword.padded
  order5 := h.codeword.pushed
  dataFrom := ⟨h.codeword.dataFrom, h.codeword.noData⟩
  order6 := ⟨h.codeword.encoded, h.codeword.notEncoded⟩
  order7 := h.grid.started
  order8 := h.grid.placed
  order9 := h.grid.selected
  afterPlacement := ⟨h.grid.formatted, h.grid.masked⟩
  modeValue := h.message.modeValue
  reqValue := h.message.reqValue
  bitlenValue := h.message.bitlenValue
  genValue := h.codeword.genValue
  ecwValue := h.codeword.ecwValue
  gridWf := h.grid.gridWf
  drawn := ⟨h.grid.drawn, h.grid.blank⟩
  dataCells r c hr hc hf := (visited_eq s r c).symm ▸ h.grid.dataCells r c hr hc hf
  formatCells := h.grid.formatCells
  cursorRun := h.grid.cursorRun
  cursorDone := h.grid.cursorDone

/-! ## Reset -/

/-- The reset values meet the invariants under every configuration that meets its premises (R41, R42). -/
theorem parts_fresh {cfg : Config} (h : cfg.wf = true) (inbox : List HostInput) : Parts (State.fresh cfg inbox) where
  cfgWf := h
  error := by constructor <;> simp [errorView, State.fresh, State.flag, reservedBits]
  message := by constructor <;> simp [messageView, State.fresh, State.flag]
  codeword := by constructor <;> simp [codewordView, State.fresh, State.flag]
  grid := by constructor <;> simp [gridView, State.fresh, State.flag]

/-- Settles O21: the default configuration meets the premises of R10, and the reset values the rest. -/
theorem resetMeetsInvariant : Obligations.ResetMeetsInvariant := by
  have hcfg : defaultConfig.wf = true := by decide +kernel
  exact (parts_fresh hcfg []).inv

/-- A number that fits in a register is the register's value. -/
theorem toNat_ofNat_of_lt {w n : Nat} (h : n < 2 ^ w) : (BitVec.ofNat w n).toNat = n := by
  rw [BitVec.toNat_ofNat, Nat.mod_eq_of_lt h]

/-! ## Lengths of the bit stream (R164 to R172) -/

theorem payloadAlnum_length {c : Config} {msg : List CodePoint} {bs : List Bool} (h : payloadAlnum c msg = some bs) :
    bs.length = PAIRBITS * (msg.length / 2) + ODDBITS * (msg.length % 2) := by
  induction msg using payloadAlnum.induct c generalizing bs with
  | case1 =>
    obtain rfl : [] = bs := by simpa [payloadAlnum] using h
    rfl
  | case2 a =>
    obtain ⟨x, -, rfl⟩ : ∃ x, alnumValue c a = some x ∧ bitsN ODDBITS x = bs := by simpa [payloadAlnum] using h
    simp
  | case3 a b rest x y rest' hrest hy hx ih =>
    obtain rfl : bitsN PAIRBITS (45 * x + y) ++ rest' = bs := by simpa [payloadAlnum, hx, hy, hrest] using h
    simp only [List.length_append, bitsN_length, ih hrest, PAIRBITS, ODDBITS, List.length_cons]
    omega
  | case4 a b rest hnone => simp [payloadAlnum] at h

/-- The assembled stream is as long as BSCHK computed (R164, R169). -/
theorem assemble_length {c : Config} {m : Mode} {msg : List CodePoint} {bs : List Bool}
    (h : assemble c m msg = some bs) : bs.length = requiredBits m msg.length := by
  cases m with
  | alphanumeric =>
    obtain ⟨p, hp, rfl⟩ : ∃ p, payloadAlnum c msg = some p ∧ headerBits c .alphanumeric msg.length ++ p = bs := by
      simpa [assemble] using h
    simp [payloadAlnum_length hp, requiredBits, Nat.add_assoc]
  | byte =>
    obtain rfl : headerBits c .byte msg.length ++ payloadByte msg = bs := by simpa [assemble] using h
    simp [requiredBits]

/-- Padding fills the capacity exactly (R170 to R172). -/
theorem padStream_length {cap : Nat} {bs : List Bool} (h : bs.length ≤ 8 * cap) :
    (padStream (8 * cap) bs).length = 8 * cap := by
  simp only [padStream, padToByte, List.length_append, padBytes_length, List.length_replicate, addTerminator_length,
    TERMMAX]
  omega

/-- A capacity fits in BITLEN (R26, R160). -/
theorem capBits_le {c : Config} (h : c.wf = true) (l : Level) : capBits c l ≤ 200 := by
  have := budget_of_wf h l
  simp only [capBits]
  omega

/-! ## The message -/

section Message

variable {v : MessageView} (h : MessagePart v)

include h

theorem MessagePart.unpadded (hm : v.modev = false) : v.chkv = false ∧ v.asmv = false ∧ v.padv = false := by
  have h1 := h.checkedHasMode
  have h2 := h.assembledChecked
  have h3 := h.paddedAssembled
  grind

theorem MessagePart.unleveled (hl : v.lvlv = false) : v.modev = false :=
  Bool.eq_false_iff.mpr fun hm => by simp [(h.modeHasLevel hm).1] at hl

theorem MessagePart.unassembled (ha : v.asmv = false) : v.padv = false :=
  Bool.eq_false_iff.mpr fun hp => by simp [h.paddedAssembled hp] at ha

/-- An assembled message was not pushed (R103, R104). -/
theorem MessagePart.raw_eq_false (ha : v.asmv = true) : v.raw = false :=
  (h.modeHasLevel (h.checkedHasMode (h.assembledChecked ha))).2

/-- SETLVL (R102): without a level nothing has been computed yet. -/
theorem MessagePart.setLevel (hl : v.lvlv = false) (l : Level) :
    MessagePart { v with level := some l, lvlv := true } :=
  have hmode : v.mode = none := by simpa [h.unleveled hl] using h.modeHeld
  { h with
    levelHeld := rfl
    modeHasLevel := fun hm => ⟨rfl, (h.modeHasLevel hm).2⟩
    reqValue := fun q m _ _ hq => by simp [hmode] at hq }

/-- MSGCH (R103). -/
theorem MessagePart.append (hm : v.modev = false) {cp : CodePoint} (hcp : cp.toNat ≤ v.cfg.cpMax)
    (hlen : v.msglen.toNat < v.cfg.msgMax) (hmax : v.cfg.msgMax ≤ 255) :
    MessagePart { v with msg := v.msg ++ [cp], msglen := v.msglen + 1 } :=
  have hmode : v.mode = none := by simpa [hm] using h.modeHeld
  have hsucc : (v.msglen + 1).toNat = v.msglen.toNat + 1 := by bv_omega
  { h with
    msgLength := by rw [hsucc, List.length_append, h.msgLength]; rfl
    msgRange := by simp only [hsucc]; omega
    cpRange := fun c hc => (List.mem_append.mp hc).elim (h.cpRange c) fun hc => List.mem_singleton.mp hc ▸ hcp
    modeValue := fun m hq => by simp [hmode] at hq
    reqValue := fun q m l _ hq => by simp [hmode] at hq }

/-- DCWPUSH (R104) on the message: the raw path. -/
theorem MessagePart.setRaw (hm : v.modev = false) : MessagePart { v with raw := true } :=
  { h with modeHasLevel := fun hm' => by simp [hm] at hm' }

/-- BSMODE (R174). -/
theorem MessagePart.setMode (hl : v.lvlv = true) (hm : v.modev = false) (hr : v.raw = false)
    (hok : (detectMode v.cfg v.msg == .alphanumeric || checkBytes v.msg) = true) :
    MessagePart { v with mode := some (detectMode v.cfg v.msg), modev := true } :=
  have hreq : v.reqbits = none := by simpa [h.unpadded hm] using h.reqbitsHeld
  { h with
    modeHeld := rfl
    checkedHasMode := fun _ => rfl
    modeHasLevel := fun _ => ⟨hl, hr⟩
    modeValue := fun m hm => by
      obtain rfl := Option.some.inj hm
      refine ⟨rfl, fun hb => ?_⟩
      simpa [hb] using hok
    reqValue := fun q m l hq => by simp [hreq] at hq }

/-- BSCHK (R175). -/
theorem MessagePart.setReqbits (hc : v.chkv = false) {m : Mode} {l : Level} (hm : v.mode = some m)
    (hl : v.level = some l) (hcap : requiredBits m v.msglen.toNat ≤ capBits v.cfg l) (hmax : capBits v.cfg l ≤ 200) :
    MessagePart { v with reqbits := some (BitVec.ofNat 16 (requiredBits m v.msglen.toNat)), chkv := true } :=
  have hbit : v.bitlen = none := by
    have hasm : v.asmv = false := Bool.eq_false_iff.mpr fun ha => by simp [h.assembledChecked ha] at hc
    simpa [hasm] using h.bitlenHeld
  { h with
    reqbitsHeld := rfl
    checkedHasMode := fun _ => by simpa [hm] using h.modeHeld.symm
    assembledChecked := fun _ => rfl
    reqValue := fun q m' l' hq hm' hl' => by
      obtain rfl : m = m' := Option.some.inj (hm.symm.trans hm')
      obtain rfl : l = l' := Option.some.inj (hl.symm.trans hl')
      obtain rfl := Option.some.inj hq
      have hfit : (BitVec.ofNat 16 (requiredBits m v.msglen.toNat)).toNat = requiredBits m v.msglen.toNat :=
        toNat_ofNat_of_lt (by omega)
      rw [hfit]
      exact ⟨by rw [h.msgLength], hcap⟩
    bitlenValue := fun _ n q hn => by simp [hbit] at hn }

/-- BSASM (R176). -/
theorem MessagePart.setBits (hc : v.chkv = true) {m : Mode} {q : BitVec 16} {bs : List Bool}
    (hm : v.mode = some m) (hq : v.reqbits = some q) (hbs : assemble v.cfg m v.msg = some bs)
    (hmax : ∀ l, capBits v.cfg l ≤ 200) :
    MessagePart { v with bits := bs, bitlen := some (q.setWidth 8), asmv := true } := by
  have hlv : v.level.isSome := by
    rw [h.levelHeld]; exact (h.modeHasLevel (h.checkedHasMode hc)).1
  obtain ⟨l, hl⟩ := Option.isSome_iff_exists.mp hlv
  obtain ⟨hreq, hcap⟩ := h.reqValue q m l hq hm hl
  have hfit : (q.setWidth 8).toNat = q.toNat := by
    have := hmax l
    rw [BitVec.toNat_setWidth, Nat.mod_eq_of_lt (by omega)]
  exact { h with
    bitlenHeld := rfl
    bitsLength := fun n hn => by
      obtain rfl := Option.some.inj hn
      rw [hfit, hreq, assemble_length hbs]
    paddedAssembled := fun _ => rfl
    assembledChecked := fun _ => hc
    bitlenValue := fun _ n q' hn hq' => by
      obtain rfl := Option.some.inj hn
      obtain rfl : q = q' := Option.some.inj (hq.symm.trans hq')
      exact hfit }

/-- Before padding the stream fits in the capacity of the level (R175, R176). -/
theorem MessagePart.bits_le (ha : v.asmv = true) (hp : v.padv = false) {l : Level} (hl : v.level = some l) {n : BitVec 8}
    (hn : v.bitlen = some n) : v.bits.length ≤ capBits v.cfg l := by
  have hchk := h.assembledChecked ha
  obtain ⟨q, hq⟩ := Option.isSome_iff_exists.mp (h.reqbitsHeld.trans hchk)
  obtain ⟨m, hm⟩ := Option.isSome_iff_exists.mp (h.modeHeld.trans (h.checkedHasMode hchk))
  rw [h.bitsLength n hn, h.bitlenValue hp n q hn hq]
  exact (h.reqValue q m l hq hm hl).2

/-- BSPAD (R177) on the bit stream. -/
theorem MessagePart.pad (ha : v.asmv = true) (hp : v.padv = false) {l : Level} (hl : v.level = some l) {n : BitVec 8}
    (hn : v.bitlen = some n) (hmax : capBits v.cfg l ≤ 200) :
    MessagePart { v with
      bits := padStream (capBits v.cfg l) v.bits, bitlen := some (BitVec.ofNat 8 (capBits v.cfg l)), padv := true } :=
  { h with
    bitlenHeld := ha.symm
    bitsLength := fun n' hn' => by
      obtain rfl := Option.some.inj hn'
      rw [toNat_ofNat_of_lt (by omega)]
      exact padStream_length (h.bits_le ha hp hl hn)
    paddedAssembled := fun _ => ha
    bitlenValue := fun hp' => by simp at hp' }

end Message

/-! ## The codewords -/

section Codeword

variable {v : CodewordView} (h : CodewordPart v)

include h

/-- Before padding, LEVEL and BITLEN do not bear on the codewords. -/
theorem CodewordPart.relabel (hp : v.padv = false) (level : Option Level) (bitlen : Option (BitVec 8)) :
    CodewordPart { v with level := level, bitlen := bitlen } :=
  { h with padded := fun hp' => by simp [hp] at hp' }

/-- BSMODE (R174) on the codewords: none has been pushed. -/
theorem CodewordPart.setModev (hr : v.raw = false) : CodewordPart { v with modev := true } :=
  { h with pushed := fun hr' => by simp [hr] at hr' }

/-- DCWPUSH (R104). -/
theorem CodewordPart.push (hm : v.modev = false) (hp : v.padv = false) (he : v.ecwv = false) (hlen : v.dlen.toNat < 25)
    (b : Byte) :
    CodewordPart { v with dcw := v.dcw ++ [b], dlen := v.dlen + 1, dcwv := true, raw := true } :=
  have hsucc : (v.dlen + 1).toNat = v.dlen.toNat + 1 := by bv_omega
  have hpos : 1 ≤ (v.dlen + 1).toNat := by omega
  { h with
    dcwLength := by rw [hsucc, List.length_append, h.dcwLength]; rfl
    dlenRange := by simp only [hsucc]; omega
    padded := fun hp' => by simp [hp] at hp'
    pushed := fun _ => ⟨rfl, hpos, hm⟩
    dataFrom := fun _ => ⟨.inr rfl, hpos⟩
    noData := fun hd => by simp at hd
    encoded := fun he' => by simp [he] at he'
    ecwValue := fun he' => by simp [he] at he' }

/-- RSGEN and RSGENL (R146, R147). -/
theorem CodewordPart.setGenerator (hg : v.genv = false) {n : Nat} (hn : 1 ≤ n ∧ n ≤ 25) :
    CodewordPart { v with
      gen := some (rsGen v.cfg.log1 n), gendeg := some (BitVec.ofNat 5 n), genv := true } :=
  { h with
    genHeld := ⟨rfl, rfl⟩
    encoded := fun he => by simp [(h.encoded he).2.1] at hg
    genValue := fun d hd => by
      obtain rfl := Option.some.inj hd
      have hfit : (BitVec.ofNat 5 n).toNat = n := toNat_ofNat_of_lt (by omega)
      rw [hfit]
      exact ⟨hn.1, hn.2, rfl⟩ }

/-- RSENC (R148). -/
theorem CodewordPart.encode (hd : v.dcwv = true) (hg : v.genv = true) {n : BitVec 5} (hn : v.gendeg = some n)
    (hsum : v.dlen.toNat + n.toNat ≤ 26) :
    CodewordPart { v with ecw := rsEncode v.cfg.log1 v.dcw n.toNat, elen := n, ecwv := true } :=
  { h with
    ecwLength := rsEncodeWith_length _ _ _ _
    encoded := fun _ => ⟨hd, hg, hn, hsum⟩
    notEncoded := fun he => by simp at he
    ecwValue := fun _ => rfl }

/-- Without padding and without pushing there are no codewords. -/
theorem CodewordPart.noCodewords (hr : v.raw = false) (hp : v.padv = false) : v.dcwv = false ∧ v.ecwv = false := by
  have hd : v.dcwv = false := Bool.eq_false_iff.mpr fun hd => by simpa [hp, hr] using h.dataFrom hd
  exact ⟨hd, Bool.eq_false_iff.mpr fun he => by simp [(h.encoded he).1] at hd⟩

/-- BSPAD (R177) on the codewords: no codeword has been pushed, so none has been encoded. -/
theorem CodewordPart.pad (hr : v.raw = false) (hp : v.padv = false) {l : Level} (hl : v.level = some l)
    (hcap : 1 ≤ v.cfg.cap.get l ∧ v.cfg.cap.get l ≤ 25) (bits : List Bool) :
    CodewordPart { v with
      bitlen := some (BitVec.ofNat 8 (capBits v.cfg l)), dcw := packBytes (v.cfg.cap.get l) bits,
      dlen := BitVec.ofNat 5 (v.cfg.cap.get l), dcwv := true, padv := true } :=
  have he := (h.noCodewords hr hp).2
  have hfit : (BitVec.ofNat 5 (v.cfg.cap.get l)).toNat = v.cfg.cap.get l := toNat_ofNat_of_lt (by omega)
  { h with
    dcwLength := by simp only [packBytes_length, hfit]
    dlenRange := hfit.trans_le hcap.2
    padded := fun _ => by
      refine ⟨rfl, fun l' hl' => ?_, fun n hn => ?_⟩
      · obtain rfl : l = l' := Option.some.inj (hl.symm.trans hl')
        exact hfit
      · obtain rfl := Option.some.inj hn
        rw [hfit, toNat_ofNat_of_lt (by simp only [capBits]; omega), capBits]
    pushed := fun hr' => by simp [hr] at hr'
    dataFrom := fun _ => ⟨.inl rfl, hcap.1.trans_eq hfit.symm⟩
    noData := fun hd => by simp at hd
    encoded := fun he' => by simp [he] at he'
    ecwValue := fun he' => by simp [he] at he' }

/-- The codewords fill at most the 208 data cells (R199). -/
theorem CodewordPart.tot_le (he : v.ecwv = true) : 8 * (v.dlen.toNat + v.elen.toNat) ≤ 208 := by
  obtain ⟨-, -, -, hsum⟩ := h.encoded he
  omega

end Codeword

/-! ## The grid -/

section Grid

variable {v : GridView} (h : GridPart v)

include h

/-- SETLVL (R102) on the grid. -/
theorem GridPart.setLevel : GridPart { v with lvlv := true } :=
  { h with
    selected := fun hd =>
      have ⟨hplv, _, hfmtv, hbest⟩ := h.selected hd
      ⟨hplv, rfl, hfmtv, hbest⟩
    formatted := fun hf => ⟨(h.formatted hf).1, rfl⟩ }

/-- Without EC codewords the writer is idle (R209). -/
theorem GridPart.idle_of_not_encoded (he : v.ecwv = false) : v.zst = .idle := by
  by_contra hz
  simp [(h.started hz).2] at he

/-- The placed flag is down while the writer has not finished. -/
theorem GridPart.plv_eq_false (hz : v.zst ≠ .done) : v.plv = false := Bool.eq_false_iff.mpr (mt h.placed.mp hz)

/-- While the writer has not finished, no format information is written and no mask selected. -/
theorem GridPart.unformatted (hz : v.zst ≠ .done) : v.fmtv = false ∧ v.done = false := by
  have hp := h.plv_eq_false hz
  constructor
  · exact Bool.eq_false_iff.mpr fun hf => by simp [(h.formatted hf).1] at hp
  · exact Bool.eq_false_iff.mpr fun hd => by simp [(h.selected hd).1] at hp

/-- While the writer is idle the number of bits does not bear on the grid (DCWPUSH, BSPAD, RSENC). -/
theorem GridPart.retotal (hz : v.zst = .idle) (tot : Nat) : GridPart { v with tot := tot } :=
  { h with
    cursorRun := fun hz' => by simp [hz] at hz'
    cursorDone := fun hz' => by simp [hz] at hz' }

/-- RSENC (R148) on the grid. -/
theorem GridPart.setEncoded : GridPart { v with ecwv := true } :=
  { h with started := fun hz => ⟨(h.started hz).1, rfl⟩ }

/-- FPLACE (R208): on a blank grid, with the writer idle. -/
theorem GridPart.draw (hf : v.fpv = false) : GridPart { v with g := drawFunctionPatterns v.g, fpv := true } :=
  have hz : v.zst = .idle := by
    by_contra hz
    simp [(h.started hz).1] at hf
  have hblank := h.blank hf
  have hformat := (h.unformatted (by simp [hz])).1
  { h with
    started := fun hz' => by simp [hz] at hz'
    gridWf := drawFunctionPatterns_wf _
    drawn := fun _ r c m hr hc hd => by simp [read_drawFunctionPatterns _ hr hc, hd]
    blank := fun hf' => by simp at hf'
    dataCells := fun r c hr hc hn => by
      simp [read_drawFunctionPatterns _ hr hc, drawnAt_of_data hr hc hn, hblank, hz]
    formatCells := fun r c hr hc hn => by
      simp [read_drawFunctionPatterns _ hr hc, drawnAt_of_isFormat hn, hblank, hformat] }

/-- ZZINIT (R209): the writer starts at the first cell with no bit consumed. -/
theorem GridPart.start (hf : v.fpv = true) (he : v.ecwv = true) (hz : v.zst = .idle) :
    GridPart { v with zst := .run, cursor := some Cursor.start } :=
  { h with
    cursorHeld := rfl
    started := fun _ => ⟨hf, he⟩
    placed := by simp [h.plv_eq_false (by simp [hz])]
    dataCells := fun r c hr hc hn => by simpa [hz, stepsTaken_start] using h.dataCells r c hr hc hn
    cursorRun := fun _ k hk => by
      obtain rfl := Option.some.inj hk
      exact ⟨upright_start.1, upright_start.2, by simp [stepsTaken_start, dataVisited_zero]; rfl⟩
    cursorDone := fun hz' => by simp at hz' }

/-- The walk that a running writer is on. -/
theorem GridPart.walking (hz : v.zst = .run) {k : Cursor} (hk : v.cursor = some k) : Walking v.tot ⟨v.g, v.zst, k⟩ where
  gridWf := h.gridWf
  running := hz
  upright := ⟨(h.cursorRun hz k hk).1, (h.cursorRun hz k hk).2.1⟩
  consumed := (h.cursorRun hz k hk).2.2
  dataCells r c hr hc hf := by simpa [hz, hk] using h.dataCells r c hr hc hf

/-- ZZSTEP and ZZRUN (R210, R211): a walk that goes on or ends, and leaves the function cells. -/
theorem GridPart.move (hz : v.zst = .run) {x : Walk} (hx : Walking v.tot x ∨ Walked v.tot x)
    (hread : ∀ r c, c ≤ 20 → isFunction r c = true → x.g.read r c = v.g.read r c) {plv : Bool}
    (hplv : plv = true ↔ x.zst = .done) :
    GridPart { v with g := x.g, zst := x.zst, cursor := some x.cur, plv := plv } := by
  have hp := h.plv_eq_false (by simp [hz])
  obtain ⟨hformat, hdone⟩ := h.unformatted (by simp [hz])
  have hstarted := h.started (by simp [hz])
  have hmask : v.mskpar = 0 := by
    by_contra hm
    simp [h.masked hm] at hp
  have hnotIdle : x.zst ≠ .idle := by
    obtain hx | hx := hx
    · simp [hx.running]
    · simp [hx.finished]
  exact { h with
    cursorHeld := by simp [bne, hnotIdle]
    started := fun _ => hstarted
    placed := hplv
    selected := fun hd => by simp [hdone] at hd
    formatted := fun hf => by simp [hformat] at hf
    masked := fun hm => absurd hmask hm
    gridWf := by obtain hx | hx := hx <;> exact hx.gridWf
    drawn := fun hf r c m hr hc hd => by
      rw [hread r c hc (kind_of_drawn hr hc hd).1]
      exact h.drawn hf r c m hr hc hd
    blank := fun hf => by simp [hstarted.1] at hf
    dataCells := fun r c hr hc hf => by
      obtain hx | hx := hx
      · simpa [hx.running] using hx.dataCells r c hr hc hf
      · simpa [hx.finished] using hx.dataCells r c hr hc hf
    formatCells := fun r c hr hc hf => by
      rw [hread r c hc (isFunction_of_isFormat hf)]
      exact h.formatCells r c hr hc hf
    cursorRun := fun hrun k hk => by
      obtain rfl := Option.some.inj hk
      obtain hx | hx := hx
      · exact ⟨hx.upright.1, hx.upright.2, hx.consumed⟩
      · simp [hx.finished] at hrun
    cursorDone := fun hend k hk => by
      obtain rfl := Option.some.inj hk
      obtain hx | hx := hx
      · simp [hx.running] at hend
      · obtain ⟨zn, hzn, hcur⟩ := hx.cursor
        simp [hcur, hzn] }

/-- A grid with the same drawn cells, whose data cells are set alike, serves as well once the walk is over; its format
cells are set exactly when FMTV is. -/
theorem GridPart.regrid (hp : v.plv = true) {g : Grid} {fmtv : Bool} (hwf : Memory.wf g = true)
    (hsame : SameCells v.g g) (hlvl : fmtv = true → v.lvlv = true) (hkeep : v.fmtv = true → fmtv = true)
    (hformat : ∀ r c, r ≤ 20 → c ≤ 20 → isFormat r c = true → (g.read r c ≠ .unset ↔ fmtv = true)) :
    GridPart { v with g := g, fmtv := fmtv } :=
  have hfpv : v.fpv = true := (h.started (by simp [h.placed.mp hp])).1
  { h with
    selected := fun hd =>
      have ⟨hplv, hlvlv, hfmtv, hbest⟩ := h.selected hd
      ⟨hplv, hlvlv, hkeep hfmtv, hbest⟩
    formatted := fun hf => ⟨hp, hlvl hf⟩
    gridWf := hwf
    drawn := fun hf r c m hr hc hd => by
      obtain ⟨hn, hnf⟩ := kind_of_drawn hr hc hd
      rw [hsame.pattern hr hc hn hnf]
      exact h.drawn hf r c m hr hc hd
    blank := fun hf => by simp [hfpv] at hf
    dataCells := fun r c hr hc hf => (not_congr (hsame.data hr hc hf)).trans (h.dataCells r c hr hc hf)
    formatCells := hformat }

/-- MASKAP (R235) on MSKPAR. -/
theorem GridPart.setMskpar (hp : v.plv = true) (hd : v.done = false) (mskpar : BitVec 8) :
    GridPart { v with mskpar := mskpar } :=
  { h with
    selected := fun hd' => by simp [hd] at hd'
    masked := fun _ => hp }

/-- MASKSEL (R249) on its registers. -/
theorem GridPart.setBest (hp : v.plv = true) (hl : v.lvlv = true) (hf : v.fmtv = true) (best : BitVec 3) (pen : Word) :
    GridPart { v with best := some best, bestpen := some pen, mskpar := 1#8 <<< best.toNat, done := true } :=
  { h with
    bestHeld := ⟨rfl, rfl⟩
    selected := fun _ => ⟨hp, hl, hf, fun b hb => by rw [Option.some.inj hb]⟩
    masked := fun _ => hp }

/-- Once the walk is over, every cell that is no format cell is set (R42 item 12). -/
theorem GridPart.set_of_placed (hp : v.plv = true) {r c : Nat} (hr : r ≤ 20) (hc : c ≤ 20)
    (hf : isFormat r c = false) : v.g.read r c ≠ .unset := by
  have hz := h.placed.mp hp
  cases hd : drawnAt r c with
  | some m =>
    rw [h.drawn (h.started (by simp [hz])).1 r c m hr hc hd]
    exact fun hm => drawnAt_ne_unset r hr c hc (hm ▸ hd)
  | none =>
    refine (h.dataCells r c hr hc (isFunction_eq_false_of_not_drawn hr hc hd hf)).mpr ?_
    rw [hz, visitedBy_done]

end Grid

end Sys2Proof.Proofs

/-! # Every step keeps the invariants

Each effect is read as an update of the views, and each update keeps its part. -/

namespace Sys2Proof.Proofs

open Host Sys2Proof.Machine Sys2Proof.Safety

section Views

variable {s t : State} {i : Instr}

/-- No effect bears on errors (R275). -/
theorem Effect.errorView_eq (h : Effect s i t) : errorView t = errorView s := by
  cases h with
  | rsgen | rsgenl => simp [errorView, State.withGenerator, flag_eq_statusFlag]
  | zzstep | zzrun =>
    simp only [errorView, State.withWalk_err, State.withWalk_errcmd, State.withWalk_flag, State.withWalk_status]
    split <;> simp
  | _ => simp [errorView, flag_eq_statusFlag]

end Views

/-- The host's inputs are no part of the invariants (log 2). -/
theorem Parts.setInbox {s : State} (hs : Parts s) (inbox : List HostInput) : Parts { s with inbox := inbox } :=
  ⟨hs.cfgWf, hs.error, hs.message, hs.codeword, hs.grid⟩

theorem Parts.restart {s : State} (hs : Parts s) : Parts s.restart := parts_fresh hs.cfgWf s.inbox

/-- Raising keeps the invariants: the code is one of the eight, and FAULT goes up with it (R275). -/
theorem Parts.raise {s : State} (hs : Parts s) (e : ErrorKind) (w : Word) : Parts (s.raise e w) where
  cfgWf := hs.cfgWf
  error := by
    have hcode : e.code ≠ 0 ∧ e.code.toNat ≤ 8 := by cases e <;> decide
    exact {
      faultIff := iff_of_true (by simp [errorView]) hcode.1
      errLegal := hcode.2
      errcmdZero := fun h => absurd h hcode.1
      reservedZero := by simpa [errorView] using hs.error.reservedZero }
  message := by simpa [messageView] using hs.message
  codeword := by simpa [codewordView] using hs.codeword
  grid := by simpa [gridView, totBits] using hs.grid

/-! ## Effects as updates of the views -/

section Effects

variable {s t : State} {i : Instr}

/-- Every effect keeps the part of the message. -/
theorem Effect.messagePart (h : Effect s i t) (hs : Parts s) (ho : inOrder i s = true) :
    MessagePart (messageView t) := by
  have hm := hs.message
  have hmsg' : entries s.msg s.msglen.toNat = some s.msg := entries_of_length hm.msgLength
  cases h with
  | setlvl l =>
    simpa [messageView, flag_eq_statusFlag] using hm.setLevel (not_flag_of_inOrder ho .lvlv) l
  | @msgch cp hcp hlen =>
    have hlist : appended s.msg s.msglen.toNat cp = s.msg ++ [cp] := appended_of_length hm.msgLength cp
    have happ := hm.append (not_flag_of_inOrder ho .modev) hcp hlen (msgMax_le_of_wf hs.cfgWf)
    simpa [messageView, flag_eq_statusFlag, hlist] using happ
  | dcwpush => simpa [messageView, flag_eq_statusFlag] using hm.setRaw (not_flag_of_inOrder ho .modev)
  | bsmode hmsg hok =>
    obtain rfl := Option.some.inj (hmsg'.symm.trans hmsg)
    have hset := hm.setMode (flag_of_inOrder ho .lvlv) (not_flag_of_inOrder ho .modev) (not_flag_of_inOrder ho .raw) hok
    simpa [messageView, flag_eq_statusFlag] using hset
  | bschk hmode hlevel hcap =>
    have hset := hm.setReqbits (not_flag_of_inOrder ho .chkv) hmode hlevel hcap (capBits_le hs.cfgWf _)
    simpa [messageView, flag_eq_statusFlag] using hset
  | bsasm hmode hreq hmsg hbs =>
    obtain rfl := Option.some.inj (hmsg'.symm.trans hmsg)
    have hset := hm.setBits (flag_of_inOrder ho .chkv) hmode hreq hbs (capBits_le hs.cfgWf)
    simpa [messageView, flag_eq_statusFlag] using hset
  | bspad hlevel hlen hbs =>
    have hbits := entries_of_length (hm.bitsLength _ hlen)
    obtain rfl := Option.some.inj (hbits.symm.trans hbs)
    have hset := hm.pad (flag_of_inOrder ho .asmv) (not_flag_of_inOrder ho .padv) hlevel hlen (capBits_le hs.cfgWf _)
    simpa [messageView, flag_eq_statusFlag] using hset
  | rsgen | rsgenl | zzstep | zzrun => simpa [messageView] using hm
  | _ => simpa [messageView, flag_eq_statusFlag] using hm

/-- Every effect keeps the part of the codewords. -/
theorem Effect.codewordPart (h : Effect s i t) (hs : Parts s) (ho : inOrder i s = true) :
    CodewordPart (codewordView t) := by
  have hm := hs.message
  have hc := hs.codeword
  cases h with
  | setlvl l =>
    have hset := hc.relabel (hm.unpadded (hm.unleveled (not_flag_of_inOrder ho .lvlv))).2.2 (some l) s.bitlen
    simpa [codewordView, flag_eq_statusFlag] using hset
  | @dcwpush b hlen =>
    have hlist : appended s.dcw s.dlen.toNat b = s.dcw ++ [b] := appended_of_length hc.dcwLength b
    have hmodev := not_flag_of_inOrder ho .modev
    have hpush := hc.push hmodev (hm.unpadded hmodev).2.2 (not_flag_of_inOrder ho .ecwv) hlen b
    simpa [codewordView, flag_eq_statusFlag, hlist] using hpush
  | rsgen hn =>
    simpa [codewordView, State.withGenerator, flag_eq_statusFlag] using
      hc.setGenerator (not_flag_of_inOrder ho .genv) hn
  | rsgenl hl =>
    obtain ⟨-, -, hpos, hle, -⟩ := budget_of_wf hs.cfgWf ‹_›
    simpa [codewordView, State.withGenerator, flag_eq_statusFlag] using
      hc.setGenerator (not_flag_of_inOrder ho .genv) ⟨hpos, hle⟩
  | @rsenc n data gen g hn hsum hdata hgen hg =>
    obtain rfl := Option.some.inj ((entries_of_length hc.dcwLength).symm.trans hdata)
    obtain rfl := Option.some.inj (hgen.symm.trans (hc.genValue n hn).2.2)
    obtain rfl := Option.some.inj ((entries_of_length (rsGen_length _ _)).symm.trans hg)
    have hset := hc.encode (flag_of_inOrder ho .dcwv) (flag_of_inOrder ho .genv) hn hsum
    simpa [codewordView, flag_eq_statusFlag, rsEncode] using hset
  | bsmode =>
    simpa [codewordView, flag_eq_statusFlag] using hc.setModev (not_flag_of_inOrder ho .raw)
  | @bsasm m q =>
    have hset := hc.relabel (hm.unassembled (not_flag_of_inOrder ho .asmv)) s.level (some (q.setWidth 8))
    simpa [codewordView, flag_eq_statusFlag] using hset
  | bspad hlevel hlen hbs =>
    obtain ⟨hpos, hle, -⟩ := budget_of_wf hs.cfgWf ‹_›
    have hset := hc.pad (hm.raw_eq_false (flag_of_inOrder ho .asmv)) (not_flag_of_inOrder ho .padv) hlevel ⟨hpos, hle⟩
    simpa [codewordView, flag_eq_statusFlag] using hset _
  | zzstep | zzrun => simpa [codewordView] using hc
  | _ => simpa [codewordView, flag_eq_statusFlag] using hc

/-- The writer runs over the 8 bits of each codeword, at most one for each data cell (R199). -/
theorem Parts.codewordBits_length {data ec : List Byte} (hs : Parts s) (hz : s.zst = .run)
    (hdata : entries s.dcw s.dlen.toNat = some data) (hec : entries s.ecw s.elen.toNat = some ec) :
    (codewordBits (data ++ ec)).length = totBits s ∧ totBits s ≤ 208 := by
  have hc := hs.codeword
  obtain rfl := Option.some.inj ((entries_of_length hc.dcwLength).symm.trans hdata)
  obtain rfl := Option.some.inj ((entries_of_length hc.ecwLength).symm.trans hec)
  refine ⟨?_, hc.tot_le (hs.grid.started (by simp [gridView, hz])).2⟩
  rw [Machine.codewordBits_length, List.length_append]
  exact congrArg (8 * ·) (congrArg₂ (· + ·) hc.dcwLength hc.ecwLength)

/-- The state after the writer has moved keeps the part of the grid (R210, R211). -/
theorem Parts.gridPart_withWalk (hs : Parts s) (hz : s.zst = .run) {x : Walk}
    (hx : Walking (totBits s) x ∨ Walked (totBits s) x)
    (hread : ∀ r c, c ≤ 20 → isFunction r c = true → x.g.read r c = s.g.read r c) :
    GridPart (gridView (s.withWalk x)) := by
  have hp : s.flag .plv = false := hs.grid.plv_eq_false (by simp [gridView, hz])
  have hplv : (s.withWalk x).flag .plv = true ↔ x.zst = .done := by simp [hp]
  have hmove := hs.grid.move hz hx hread hplv
  simpa [gridView, totBits] using hmove

/-- Every effect keeps the part of the grid. -/
theorem Effect.gridPart (h : Effect s i t) (hs : Parts s) (ho : inOrder i s = true) : GridPart (gridView t) := by
  have hg := hs.grid
  cases h with
  | setlvl l => simpa [gridView, totBits, flag_eq_statusFlag] using hg.setLevel
  | dcwpush =>
    have hset := hg.retotal (hg.idle_of_not_encoded (not_flag_of_inOrder ho .ecwv))
    simpa [gridView, totBits, flag_eq_statusFlag] using hset _
  | @rsenc n =>
    have hidle := hg.idle_of_not_encoded (not_flag_of_inOrder ho .ecwv)
    have hset := (hg.retotal hidle (8 * (s.dlen.toNat + n.toNat))).setEncoded
    simpa [gridView, totBits, flag_eq_statusFlag] using hset
  | bspad =>
    have hempty := hs.codeword.noCodewords (hs.message.raw_eq_false (flag_of_inOrder ho .asmv))
      (not_flag_of_inOrder ho .padv)
    have hset := hg.retotal (hg.idle_of_not_encoded hempty.2)
    simpa [gridView, totBits, flag_eq_statusFlag] using hset _
  | fplace => simpa [gridView, totBits, flag_eq_statusFlag] using hg.draw (not_flag_of_inOrder ho .fpv)
  | zzinit =>
    have hidle : s.zst = .idle := by simpa [needsState] using needsState_of_inOrder ho
    exact hg.start (flag_of_inOrder ho .fpv) (flag_of_inOrder ho .ecwv) hidle
  | zzstep hcur hdata hec =>
    have hrun : s.zst = .run := by simpa [needsState] using needsState_of_inOrder ho
    obtain ⟨hlen, htot⟩ := hs.codewordBits_length hrun hdata hec
    have hwalk := hg.walking hrun hcur
    exact hs.gridPart_withWalk hrun (hwalk.zzStep hlen htot) fun r c hc hf =>
      read_zzStep_of_function hwalk.upright.1 hc hf
  | zzrun hcur hdata hec =>
    have hrun : s.zst = .run := by simpa [needsState] using needsState_of_inOrder ho
    obtain ⟨hlen, htot⟩ := hs.codewordBits_length hrun hdata hec
    obtain ⟨hx, hread⟩ := (hg.walking hrun hcur).zzRun hlen htot WALKSTEPS
    exact hs.gridPart_withWalk hrun hx hread
  | @maskap id =>
    have hp := flag_of_inOrder ho .plv
    have hset := hg.regrid hp (applyMask_wf id s.g) (sameCells_applyMask id s.g) (fun hf => (hg.formatted hf).2)
      (fun hf => hf) fun r c hr hc hf => by
        rw [read_applyMask_of_function id s.g hr hc (isFunction_of_isFormat hf)]
        exact hg.formatCells r c hr hc hf
    exact hset.setMskpar hp (not_flag_of_inOrder ho .done) _
  | @masksel l hlevel =>
    have hp := flag_of_inOrder ho .plv
    have hl := flag_of_inOrder ho .lvlv
    have hset := hg.regrid (fmtv := true) hp (select_wf s.cfg l s.g) (sameCells_select hs.cfgWf l s.g) (fun _ => hl)
      (fun _ => rfl) fun r c _ _ hf => iff_of_true (read_select_of_format hs.cfgWf l s.g hf) rfl
    have hbest := hset.setBest hp hl rfl (select s.cfg l s.g).best (BitVec.ofNat 32 (select s.cfg l s.g).bestpen)
    simpa [gridView, totBits, flag_eq_statusFlag] using hbest
  | @fmtwr id l hlevel =>
    have hset := hg.regrid (fmtv := true) (flag_of_inOrder ho .plv) (writeFormat_wf s.cfg l id hg.gridWf)
      (sameCells_writeFormat hs.cfgWf l id s.g) (fun _ => flag_of_inOrder ho .lvlv) (fun _ => rfl)
      fun r c _ _ hf => iff_of_true (read_writeFormat_of_format hs.cfgWf l id s.g hf) rfl
    simpa [gridView, totBits, flag_eq_statusFlag] using hset
  | rsgen | rsgenl => simpa [gridView, totBits] using hg
  | _ => simpa [gridView, totBits, flag_eq_statusFlag] using hg

theorem Effect.keeps_parts (h : Effect s i t) (hs : Parts s) (ho : inOrder i s = true) : Parts t where
  cfgWf := by rw [h.cfg_eq]; exact hs.cfgWf
  error := by rw [h.errorView_eq]; exact hs.error
  message := h.messagePart hs ho
  codeword := h.codewordPart hs ho
  grid := h.gridPart hs ho

end Effects

/-- Every command keeps the invariants (R42). -/
theorem exec_keeps_parts {i : Instr} {s t : State} (hs : Parts s) (h : exec i s = .next t) : Parts t := by
  obtain ⟨-, rfl⟩ | ⟨-, ⟨-, rfl⟩ | ⟨-, e, rfl⟩ | ⟨-, ho, heff⟩⟩ := exec_next h
  · exact hs.restart
  · exact hs
  · exact hs.raise e _
  · exact heff.keeps_parts hs ho

/-- Settles O20: the idle step, a reset, a command and an illegal word each keep the four parts of the invariant. -/
theorem stepKeepsInvariant : Obligations.StepKeepsInvariant := by
  intro s t hinv h
  have hs := Parts.of_inv hinv
  refine Parts.inv ?_
  obtain ⟨-, rfl⟩ | ⟨rest, -, rfl⟩ | ⟨w, rest, -, ⟨i, -, hx⟩ | ⟨-, hx⟩⟩ := step_next h
  · exact hs
  · exact parts_fresh hs.cfgWf rest
  · exact exec_keeps_parts (hs.setInbox rest) hx
  · obtain ⟨-, rfl⟩ | ⟨-, rfl⟩ := illegalCommand_next hx
    · exact hs.setInbox rest
    · exact (hs.setInbox rest).raise .illegalCommand w

/-- Settles O23: the padded lengths are the capacity's; once placed, every data cell is visited, every drawn cell is
drawn, and the format cells follow FMTV. -/
theorem invariantGivesTabledItems : Obligations.InvariantGivesTabledItems := by
  intro s h
  have hset : s.flag .plv = true → ∀ r c, r ≤ 20 → c ≤ 20 → isFormat r c = false → s.g.read r c ≠ .unset :=
    fun hp r c hr hc hf => (Parts.of_inv h).grid.set_of_placed hp hr hc hf
  refine ⟨fun hp l hl => ?_, fun hp he l hl helen => ?_, hset, fun hp hf r c hr hc => ?_⟩
  · obtain ⟨-, hcap, hbits⟩ := h.order4 hp
    obtain ⟨-, hdcw, -⟩ := h.lengths
    obtain ⟨n, hn⟩ := Option.isSome_iff_exists.mp (h.bitlenHeld.trans (h.order3.1 hp))
    rw [← hcap l hl, ← hbits n hn, BitVec.ofNat_toNat, BitVec.setWidth_eq]
    exact ⟨hn, hdcw⟩
  · obtain ⟨-, hcap, -⟩ := h.order4 hp
    obtain ⟨-, -, -, -, hsum⟩ := budget_of_wf h.cfgWf l
    rw [hcap l hl, helen, hsum]
  · cases hformat : isFormat r c with
    | false => exact hset hp r c hr hc hformat
    | true => exact (h.formatCells r c hr hc hformat).mpr hf

end Sys2Proof.Proofs

/-! # The encoding

An assigned opcode has one row of the opcode map, and the row selects exactly the words with that opcode and zeros in
the must-be-zero bits (`selects_iff`). So a word decodes to whatever command a row that selects it builds
(`decode_eq_some_iff`), and to nothing when no row has its opcode or one of its must-be-zero bits is 1. -/

namespace Sys2Proof.Proofs

open Sys2Proof.Machine Sys2Proof.Safety Sys2Proof.Laws

/-! ## The opcode of a word (R80, R81) -/

/-- The opcode of a word: `bits[31:24]` (R81). -/
def opcodeField (w : Word) : BitVec 8 := w.extractLsb' 24 8

theorem opcodeField_toNat (w : Word) : (opcodeField w).toNat = w.toNat / 2 ^ 24 := by
  rw [opcodeField, BitVec.extractLsb'_toNat, Nat.shiftRight_eq_div_pow]
  omega

theorem opcodeField_getLsbD (w : Word) {k : Nat} (hk : k < 8) : (opcodeField w).getLsbD k = w.getLsbD (24 + k) := by
  simp [opcodeField, hk]

/-- A must-be-zero bit lies below the opcode (R81). -/
theorem lt_of_mustBeZero {op : BitVec 8} {k : Nat} (h : (mustBeZero op.toNat).getLsbD k = true) : k < 24 := by
  have hlow : ∀ op : BitVec 8, (mustBeZero op.toNat).toNat < 2 ^ 24 := by decide
  by_contra! hk
  have hbit := Nat.testBit_lt_two_pow ((hlow op).trans_le (Nat.pow_le_pow_right two_pos hk))
  rw [BitVec.getLsbD, hbit] at h
  exact absurd h (by decide)

/-- The opcode bits and the must-be-zero bits of a word: the opcode whole, and below it the bits that must be 0. -/
theorem masked_getLsbD (w : Word) (op : BitVec 8) {k : Nat} (hk : k < 32) :
    (w &&& (0xFF000000 ||| mustBeZero op.toNat)).getLsbD k =
      if k < 24 then (w &&& mustBeZero op.toNat).getLsbD k else w.getLsbD k := by
  have hop : ∀ k < 32, (0xFF000000 : Word).getLsbD k = decide (24 ≤ k) := by decide
  rw [BitVec.getLsbD_and, BitVec.getLsbD_or, hop k hk]
  split
  · simp [Nat.not_le.mpr ‹k < 24›]
  · simp [Nat.not_lt.mp ‹¬ k < 24›]

/-- Masking with the opcode bits and the must-be-zero bits tests the opcode and the must-be-zero bits. -/
theorem masked_eq_iff (w : Word) (op : BitVec 8) :
    w &&& (0xFF000000 ||| mustBeZero op.toNat) = op ++ (0 : BitVec 24) ↔
      opcodeField w = op ∧ w &&& mustBeZero op.toNat = 0 := by
  refine ⟨fun h => ⟨?_, ?_⟩, fun ⟨hop, hzero⟩ => ?_⟩ <;> apply BitVec.eq_of_getLsbD_eq <;> intro k hk
  · have hbit := masked_getLsbD w op (show 24 + k < 32 by omega)
    rw [h, Selects.opcode_getLsbD, if_neg (by omega), if_neg (by omega), Nat.add_sub_cancel_left] at hbit
    exact (opcodeField_getLsbD w hk).trans hbit.symm
  · rcases lt_or_ge k 24 with hlow | hhigh
    · have hbit := masked_getLsbD w op hk
      rw [h, Selects.opcode_getLsbD, if_pos hlow, if_pos hlow] at hbit
      simpa using hbit.symm
    · have hclear : (mustBeZero op.toNat).getLsbD k = false :=
        Bool.eq_false_iff.mpr fun hset => absurd (lt_of_mustBeZero hset) (Nat.not_lt.mpr hhigh)
      simp [hclear]
  · rw [masked_getLsbD w op hk, Selects.opcode_getLsbD, hzero]
    split
    · simp
    · have hadd : 24 + (k - 24) = k := by omega
      rw [← hop, opcodeField_getLsbD w (by omega), hadd]

/-! ## The rows of the opcode map (R83) -/

/-- The "match" word of a row is its opcode above zeros, and its "mask" has the opcode bits and the must-be-zero bits
that R81's table gives the opcode. -/
theorem row_words : ∀ r ∈ opcodeMap, r.matchWord = opcodeField r.matchWord ++ (0 : BitVec 24) ∧
    r.format.mask = (0xFF000000 ||| mustBeZero (opcodeField r.matchWord).toNat) := by decide

/-- No opcode has two rows. -/
theorem rowOpcodes_nodup : (opcodeMap.map fun r => opcodeField r.matchWord).Nodup := by decide

/-- The opcodes without a row are those that R85 lists as unassigned. -/
theorem unassignedOpcode_iff : ∀ op : BitVec 8,
    unassignedOpcode op.toNat = true ↔ ∀ r ∈ opcodeMap, op ≠ opcodeField r.matchWord := by decide

/-- A row selects the words with its opcode and no 1 in the opcode's must-be-zero bits. -/
theorem selects_iff {r : Row} (hr : r ∈ opcodeMap) (w : Word) : r.selects w = true ↔
    opcodeField w = opcodeField r.matchWord ∧ w &&& mustBeZero (opcodeField w).toNat = 0 := by
  obtain ⟨hmatch, hmask⟩ := row_words r hr
  rw [Row.selects, beq_iff_eq, hmask]
  conv_lhs => rhs; rw [hmatch]
  rw [masked_eq_iff]
  exact and_congr_right fun h => by rw [h]

/-- At most one row selects a word (R84). -/
theorem row_unique {r r' : Row} {w : Word} (hr : r ∈ opcodeMap) (hr' : r' ∈ opcodeMap) (h : r.selects w = true)
    (h' : r'.selects w = true) : r = r' :=
  List.inj_on_of_nodup_map rowOpcodes_nodup hr hr'
    (((selects_iff hr w).mp h).1.symm.trans ((selects_iff hr' w).mp h').1)

/-! ## Decoding (R84) -/

/-- A word decodes to what a row that selects it builds. -/
theorem decode_eq_some_iff {w : Word} {i : Instr} :
    decode w = some i ↔ ∃ r ∈ opcodeMap, r.selects w = true ∧ r.build w = i := by
  simp only [decode, Option.map_eq_some_iff]
  constructor
  · rintro ⟨r, hfind, hbuild⟩
    exact ⟨r, List.mem_of_find?_eq_some hfind, (List.find?_some hfind :), hbuild⟩
  · rintro ⟨r, hr, hsel, hbuild⟩
    have hsome : (opcodeMap.find? (·.selects w)).isSome := List.find?_isSome.mpr ⟨r, hr, hsel⟩
    obtain ⟨r', hfind⟩ := Option.isSome_iff_exists.mp hsome
    obtain rfl := row_unique hr (List.mem_of_find?_eq_some hfind) hsel (List.find?_some hfind :)
    exact ⟨r, hfind, hbuild⟩

/-- A word is illegal when no row selects it (R85). -/
theorem decode_eq_none_iff {w : Word} : decode w = none ↔ ∀ r ∈ opcodeMap, ¬ r.selects w = true := by
  simp only [decode, Option.map_eq_none_iff, List.find?_eq_none]

/-- The word of every command is selected by a row that builds the command from it. -/
theorem selects_encode (i : Instr) : Selects.Statement i := by
  cases i with
  | newreq => exact Selects.newreq
  | setlvl t => exact Selects.setlvl t
  | msgch cp => exact Selects.msgch cp
  | dcwpush b => exact Selects.dcwpush b
  | rddcw k => exact Selects.rddcw k
  | rdecw k => exact Selects.rdecw k
  | rdgen k => exact Selects.rdgen k
  | rdbit k => exact Selects.rdbit k
  | rdcell r c => exact Selects.rdcell r c
  | rdfunc r c => exact Selects.rdfunc r c
  | gfexp k => exact Selects.gfexp k
  | gflog v => exact Selects.gflog v
  | gfadd a b => exact Selects.gfadd a b
  | gfmul a b => exact Selects.gfmul a b
  | rsgen n => exact Selects.rsgen n
  | rsgenl => exact Selects.rsgenl
  | rsenc => exact Selects.rsenc
  | bsmode => exact Selects.bsmode
  | bschk => exact Selects.bschk
  | bsasm => exact Selects.bsasm
  | bspad => exact Selects.bspad
  | fplace => exact Selects.fplace
  | zzinit => exact Selects.zzinit
  | zzstep => exact Selects.zzstep
  | zzrun => exact Selects.zzrun
  | maskap id => exact Selects.maskap id
  | penalty => exact Selects.penalty
  | masksel => exact Selects.masksel
  | fmtwr id => exact Selects.fmtwr id

/-- Settles O2: a row selects the word of the command and builds the command from it, and no other row selects it. -/
theorem decodeInvertsEncode : Obligations.DecodeInvertsEncode :=
  fun i => decode_eq_some_iff.mpr (selects_encode i)

/-- Settles O4: no row selects a word exactly when no row has its opcode or the row of its opcode finds a 1 in a
must-be-zero bit. -/
theorem illegalWordsAreTheUnassigned : Obligations.IllegalWordsAreTheUnassigned := by
  refine ⟨fun w => ?_, by decide, by decide⟩
  rw [← opcodeField_toNat, unassignedOpcode_iff, decode_eq_none_iff]
  constructor
  · intro h
    by_contra! hlegal
    obtain ⟨⟨r, hr, hop⟩, hzero⟩ := hlegal
    exact h r hr ((selects_iff hr w).mpr ⟨hop, hzero⟩)
  · intro h r hr hsel
    obtain ⟨hop, hzero⟩ := (selects_iff hr w).mp hsel
    exact h.elim (fun hnone => hnone r hr hop) (fun hone => hone hzero)

/-! ## Encoding what was decoded -/

/-- Two words that agree under a mask and in the bits outside it are equal. -/
theorem eq_of_masked_eq {w w' m : Word} (hmask : w &&& m = w' &&& m)
    (hfree : ∀ k < 32, m.getLsbD k = false → w.getLsbD k = w'.getLsbD k) : w = w' := by
  apply BitVec.eq_of_getLsbD_eq; intro k hk
  cases hm : m.getLsbD k with
  | false => exact hfree k hk hm
  | true => simpa [hm] using congrArg (·.getLsbD k) hmask

/-- Two words with the same operand slice agree in each of its bits. -/
theorem getLsbD_of_slice_eq {w w' : Word} {start len k : Nat} (h : w.extractLsb' start len = w'.extractLsb' start len)
    (hk : start ≤ k ∧ k < start + len) : w.getLsbD k = w'.getLsbD k := by
  have hbit := congrArg (·.getLsbD (k - start)) h
  simp only [BitVec.getLsbD_extractLsb'] at hbit
  have hlt : k - start < len := by omega
  have hadd : start + (k - start) = k := by omega
  simpa [hlt, hadd] using hbit

/-- A row restores a word when encoding the command it builds from the word gives the word back. -/
def Restores (r : Row) : Prop := ∀ w, r.selects w = true → encode (r.build w) = w

section Formats

variable (op : BitVec 8)

/-- Format Z has no operand bit. -/
theorem restores_z {i : Instr} (hi : encode i = encodeZ op) :
    Restores ⟨op ++ (0 : BitVec 24), .z, fun _ => i⟩ := by
  intro w hsel
  exact hi.trans ((beq_iff_eq.mp hsel).symm.trans BitVec.and_allOnes)

/-- The operand bits of format B1 are one slice. -/
theorem restores_b1 (build : Byte → Instr) (hbuild : ∀ a, encode (build a) = encodeB1 op a) :
    Restores ⟨op ++ (0 : BitVec 24), .b1, fun w => build (byteField w)⟩ := by
  intro w hsel
  have hbits : ∀ k < 32, (Format.mask .b1).getLsbD k = false → 0 ≤ k ∧ k < 8 := by decide
  refine (hbuild _).trans (eq_of_masked_eq ((Selects.encodeB1_masked op _).trans (beq_iff_eq.mp hsel).symm) ?_)
  exact fun k hk hm => getLsbD_of_slice_eq (Selects.byteField_encodeB1 op _) (hbits k hk hm)

/-- The operand bits of format B2 are two slices. -/
theorem restores_b2 (build : Byte → Byte → Instr) (hbuild : ∀ a b, encode (build a b) = encodeB2 op a b) :
    Restores ⟨op ++ (0 : BitVec 24), .b2, fun w => build (highByteField w) (byteField w)⟩ := by
  intro w hsel
  have hbits : ∀ k < 32, (Format.mask .b2).getLsbD k = false → 0 ≤ k ∧ k < 8 ∨ 8 ≤ k ∧ k < 16 := by decide
  refine (hbuild _ _).trans (eq_of_masked_eq ((Selects.encodeB2_masked op _ _).trans (beq_iff_eq.mp hsel).symm) ?_)
  intro k hk hm
  obtain hlt | hlt := hbits k hk hm
  · exact getLsbD_of_slice_eq (Selects.byteField_encodeB2 op _ _) hlt
  · exact getLsbD_of_slice_eq (Selects.highByteField_encodeB2 op _ _) hlt

/-- The operand bits of format CP are one slice. -/
theorem restores_cp (build : CodePoint → Instr) (hbuild : ∀ cp, encode (build cp) = encodeCP op cp) :
    Restores ⟨op ++ (0 : BitVec 24), .cp, fun w => build (codePointField w)⟩ := by
  intro w hsel
  have hbits : ∀ k < 32, (Format.mask .cp).getLsbD k = false → 0 ≤ k ∧ k < 21 := by decide
  refine (hbuild _).trans (eq_of_masked_eq ((Selects.encodeCP_masked op _).trans (beq_iff_eq.mp hsel).symm) ?_)
  exact fun k hk hm => getLsbD_of_slice_eq (Selects.codePointField_encodeCP op _) (hbits k hk hm)

/-- The operand bits of format RC are two slices. -/
theorem restores_rc (build : BitVec 5 → BitVec 5 → Instr) (hbuild : ∀ r c, encode (build r c) = encodeRC op r c) :
    Restores ⟨op ++ (0 : BitVec 24), .rc, fun w => build (rowField w) (columnField w)⟩ := by
  intro w hsel
  have hbits : ∀ k < 32, (Format.mask .rc).getLsbD k = false → 0 ≤ k ∧ k < 5 ∨ 8 ≤ k ∧ k < 13 := by decide
  refine (hbuild _ _).trans (eq_of_masked_eq ((Selects.encodeRC_masked op _ _).trans (beq_iff_eq.mp hsel).symm) ?_)
  intro k hk hm
  obtain hlt | hlt := hbits k hk hm
  · exact getLsbD_of_slice_eq (Selects.columnField_encodeRC op _ _) hlt
  · exact getLsbD_of_slice_eq (Selects.rowField_encodeRC op _ _) hlt

/-- The operand bits of format M3 are one slice. -/
theorem restores_m3 (build : BitVec 3 → Instr) (hbuild : ∀ id, encode (build id) = encodeM3 op id) :
    Restores ⟨op ++ (0 : BitVec 24), .m3, fun w => build (maskIdField w)⟩ := by
  intro w hsel
  have hbits : ∀ k < 32, (Format.mask .m3).getLsbD k = false → 0 ≤ k ∧ k < 3 := by decide
  refine (hbuild _).trans (eq_of_masked_eq ((Selects.encodeM3_masked op _).trans (beq_iff_eq.mp hsel).symm) ?_)
  exact fun k hk hm => getLsbD_of_slice_eq (Selects.maskIdField_encodeM3 op _) (hbits k hk hm)

end Formats

theorem hostRows_restore : ∀ r ∈ hostRows, Restores r := by
  simp only [hostRows, List.forall_mem_cons]
  exact ⟨restores_z 0x01 rfl, restores_b1 0x02 .setlvl fun _ => rfl, restores_cp 0x03 .msgch fun _ => rfl,
    restores_b1 0x04 .dcwpush fun _ => rfl, restores_b1 0x08 .rddcw fun _ => rfl,
    restores_b1 0x09 .rdecw fun _ => rfl, restores_b1 0x0A .rdgen fun _ => rfl, restores_b1 0x0B .rdbit fun _ => rfl,
    restores_rc 0x0C .rdcell fun _ _ => rfl, restores_rc 0x0D .rdfunc fun _ _ => rfl, List.forall_mem_nil _⟩

theorem fieldRows_restore : ∀ r ∈ fieldRows, Restores r := by
  simp only [fieldRows, List.forall_mem_cons]
  exact ⟨restores_b1 0x10 .gfexp fun _ => rfl, restores_b1 0x11 .gflog fun _ => rfl,
    restores_b2 0x12 .gfadd fun _ _ => rfl, restores_b2 0x13 .gfmul fun _ _ => rfl,
    restores_b1 0x20 .rsgen fun _ => rfl, restores_z 0x21 rfl, restores_z 0x22 rfl, List.forall_mem_nil _⟩

theorem builderRows_restore : ∀ r ∈ builderRows, Restores r := by
  simp only [builderRows, List.forall_mem_cons]
  exact ⟨restores_z 0x30 rfl, restores_z 0x31 rfl, restores_z 0x32 rfl, restores_z 0x33 rfl, restores_z 0x40 rfl,
    restores_z 0x41 rfl, restores_z 0x42 rfl, restores_z 0x43 rfl, List.forall_mem_nil _⟩

theorem extensionRows_restore : ∀ r ∈ extensionRows, Restores r := by
  simp only [extensionRows, List.forall_mem_cons]
  exact ⟨restores_m3 0x50 .maskap fun _ => rfl, restores_z 0x51 rfl, restores_z 0x52 rfl,
    restores_m3 0x58 .fmtwr fun _ => rfl, List.forall_mem_nil _⟩

/-- Every row of the opcode map restores the words it selects (R81, R83). -/
theorem opcodeMap_restores : ∀ r ∈ opcodeMap, Restores r := by
  simp only [opcodeMap, List.forall_mem_append]
  exact ⟨⟨⟨hostRows_restore, fieldRows_restore⟩, builderRows_restore⟩, extensionRows_restore⟩

/-- Settles O3: the row that selects the word restores it. -/
theorem encodeInvertsDecode : Obligations.EncodeInvertsDecode := by
  intro w i h
  obtain ⟨r, hr, hsel, rfl⟩ := decode_eq_some_iff.mp h
  exact opcodeMap_restores r hr w hsel

/-- Settles O1: the printed words are run through the decoder. -/
theorem decodeMatchesPrintedWords : Obligations.DecodeMatchesPrintedWords := by
  unfold Obligations.DecodeMatchesPrintedWords
  decide

/-! ## The step on a command word (R100) -/

/-- Settles O5: the step takes the input and decodes it. -/
theorem stepPerformsDecodedCommand : Obligations.StepPerformsDecodedCommand := by
  intro s w rest i hin hdec
  simp only [step, takeInput_command hin, hdec]

/-- Settles O6: with the gate open, an illegal word raises. -/
theorem stepRaisesIllegalCommand : Obligations.StepRaisesIllegalCommand := by
  intro s w rest hin hdec herr
  simp only [step, takeInput_command hin, hdec, illegalCommand]
  exact gate_open (s := { s with inbox := rest }) herr _

/-! ## Illegal operands (R82, R278) -/

section Operands

variable {i : Instr} {s : State}

/-- A command that can be out of order lists SequenceError among its errors (R274, R304). -/
theorem sequenceError_mem_mayRaise (ho : inOrder i s = false) (hi : i ≠ .newreq) : 5 ∈ mayRaise i := by
  cases i with
  | newreq => exact absurd rfl hi
  | rdcell | rdfunc | gfexp | gflog | gfadd | gfmul =>
    exact absurd ho (by simp [inOrder, needsOne, needsZero, needsState])
  | _ => simp [mayRaise]

/-- A token other than the four is no level (R102). -/
theorem levelOfToken_of_illegal {c : Config} {t : Byte} (h : (Instr.setlvl t).wellFormed c = false) :
    levelOfToken t = none := by
  simp only [Instr.wellFormed, Bool.or_eq_false_iff, beq_eq_false_iff_ne] at h
  obtain ⟨⟨⟨hl, hm⟩, hq⟩, hh⟩ := h
  rw [levelOfToken, if_neg hl, if_neg hm, if_neg hq, if_neg hh]

/-- In order, a command with an illegal operand fails the check of that operand. -/
theorem exec_illegalOperand (hwf : i.wellFormed s.cfg = false) (he : s.err = 0) (ho : inOrder i s = true) :
    ∃ e : ErrorKind, e.code ∈ mayRaise i ∧ exec i s = .next (s.raise e (encode i)) := by
  cases i with
  | setlvl t =>
    refine ⟨.invalidLevelError, by simp [mayRaise, ErrorKind.code], ?_⟩
    rw [exec, execSetlvl, command_inOrder he _ (by simp [not_flag_of_inOrder ho .lvlv]),
      levelOfToken_of_illegal hwf, checkSome_none]
  | msgch cp =>
    refine ⟨.operandRange, by simp [mayRaise, ErrorKind.code], ?_⟩
    rw [exec, execMsgch, command_inOrder he _ (by simp [not_flag_of_inOrder ho .modev, not_flag_of_inOrder ho .raw])]
    exact congrArg (check · _ _ _ _) hwf
  | rdcell r c =>
    refine ⟨.operandRange, by simp [mayRaise, ErrorKind.code], ?_⟩
    rw [exec, execRdcell, command_inOrder he _ rfl]
    exact congrArg (check · _ _ _ _) hwf
  | rdfunc r c =>
    refine ⟨.operandRange, by simp [mayRaise, ErrorKind.code], ?_⟩
    rw [exec, execRdfunc, command_inOrder he _ rfl]
    exact congrArg (check · _ _ _ _) hwf
  | gflog v =>
    refine ⟨.logZero, by simp [mayRaise, ErrorKind.code], ?_⟩
    obtain rfl : v = 0 := by simpa [Instr.wellFormed] using hwf
    rw [exec, execGflog, command_inOrder he _ rfl, logRom_zero, checkSome_none]
  | rsgen n =>
    refine ⟨.operandRange, by simp [mayRaise, ErrorKind.code], ?_⟩
    rw [exec, execRsgen, command_inOrder he _ (by simp [not_flag_of_inOrder ho .genv])]
    exact congrArg (check · _ _ _ _) hwf
  | _ => exact absurd hwf (by simp [Instr.wellFormed])

end Operands

/-- Settles O13: out of order the command raises SequenceError, in order the error of its operand. -/
theorem illegalOperandAlwaysRaises : Obligations.IllegalOperandAlwaysRaises := by
  intro i s hwf he
  have hi : i ≠ .newreq := by rintro rfl; exact absurd hwf (by simp [Instr.wellFormed])
  cases ho : inOrder i s with
  | false => exact ⟨5, sequenceError_mem_mayRaise ho hi, exec_outOfOrder he hi ho⟩
  | true =>
    obtain ⟨e, hcode, hexec⟩ := exec_illegalOperand hwf he ho
    exact ⟨e.code, hcode, hexec⟩

end Sys2Proof.Proofs

/-! # The host and system commands

The word of each command as a sum of its opcode and operands, and what each command answers: out of order, at a failed
check, and when it takes effect. Out of order every command raises by `exec_outOfOrder`; in order, the lemma
`exec_<command>` leaves its Checks and its Effect. -/

namespace Sys2Proof.Proofs

open Sys2Proof.Machine Sys2Proof.Safety

/-! ## Command words as sums (R81) -/

/-- Appending is adding below a shift: the columns of a format are the summands of its word. -/
theorem toNat_append_eq_add {m n : Nat} (x : BitVec m) (y : BitVec n) :
    (x ++ y).toNat = x.toNat * 2 ^ n + y.toNat := by
  rw [BitVec.toNat_append, ← Nat.shiftLeft_add_eq_or_of_lt y.isLt, Nat.shiftLeft_eq]

theorem encodeB1_eq_add (op : BitVec 8) (a : Byte) : encodeB1 op a = op.setWidth 32 <<< 24 + a.setWidth 32 := by
  have h : (encodeB1 op a).toNat = ((op ++ (0 : BitVec 16)) ++ a).toNat := rfl
  simp only [toNat_append_eq_add] at h
  apply BitVec.eq_of_toNat_eq
  simp [h, Nat.shiftLeft_eq]
  omega

theorem encodeCP_eq_add (op : BitVec 8) (cp : CodePoint) :
    encodeCP op cp = op.setWidth 32 <<< 24 + cp.setWidth 32 := by
  have h : (encodeCP op cp).toNat = ((op ++ (0 : BitVec 3)) ++ cp).toNat := rfl
  simp only [toNat_append_eq_add] at h
  apply BitVec.eq_of_toNat_eq
  simp [h, Nat.shiftLeft_eq]
  omega

theorem encodeRC_eq_add (op : BitVec 8) (r c : BitVec 5) :
    encodeRC op r c = op.setWidth 32 <<< 24 + (r.setWidth 32 <<< 8) + c.setWidth 32 := by
  have h : (encodeRC op r c).toNat = ((((op ++ (0 : BitVec 11)) ++ r) ++ (0 : BitVec 3)) ++ c).toNat := rfl
  simp only [toNat_append_eq_add] at h
  apply BitVec.eq_of_toNat_eq
  simp [h, Nat.shiftLeft_eq]
  omega

/-! ## Checks and reads whose answer is known (R100) -/

theorem check_of {p : Prop} [Decidable p] {e : ErrorKind} {w : Word} {s : State} {k : Result} (hp : p) :
    check (decide p) e w s k = k := by
  rw [decide_eq_true hp, check_true]

theorem check_of_not {p : Prop} [Decidable p] {e : ErrorKind} {w : Word} {s : State} {k : Result}
    (hp : ¬ p) : check (decide p) e w s k = .next (raised s e.code w) := by
  rw [decide_eq_false hp, check_false, State.raise_eq_raised]

theorem reading_of_eq_some {α : Type} {o : Option α} {a : α} {f : Fault} {k : α → Result} (h : o = some a) :
    reading o f k = k a := by
  rw [h, reading_some]

/-- A bit read into RES is 1 or 0 (R66). -/
theorem setWidth_ofBool (b : Bool) : (BitVec.ofBool b).setWidth 32 = if b then 1 else 0 := by cases b <;> rfl

/-! ## The commands in order -/

section InOrder

variable {s : State} (he : s.err = 0)

include he

theorem exec_setlvl (hl : s.flag .lvlv = false) (t : Byte) :
    exec (.setlvl t) s = checkSome (levelOfToken t) .invalidLevelError (encode (.setlvl t)) s
      fun l => .next ({ s with level := some l }.setFlag .lvlv) := by
  rw [exec, execSetlvl, command_inOrder he _ (by simp [hl])]

theorem exec_msgch (hm : s.flag .modev = false) (hr : s.flag .raw = false) (cp : CodePoint) :
    exec (.msgch cp) s = check (cp.toNat ≤ s.cfg.cpMax) .operandRange (encode (.msgch cp)) s
      (check (s.msglen.toNat < s.cfg.msgMax) .bufferOverflow (encode (.msgch cp)) s
        (.next { s with msg := appended s.msg s.msglen.toNat cp, msglen := s.msglen + 1 })) := by
  rw [exec, execMsgch, command_inOrder he _ (by simp [hm, hr])]

theorem exec_dcwpush (hm : s.flag .modev = false) (hc : s.flag .ecwv = false) (b : Byte) :
    exec (.dcwpush b) s = check (s.dlen.toNat < 25) .bufferOverflow (encode (.dcwpush b)) s
      (.next (({ s with dcw := appended s.dcw s.dlen.toNat b, dlen := s.dlen + 1 }.setFlag .dcwv).setFlag .raw)) := by
  rw [exec, execDcwpush, command_inOrder he _ (by simp [hm, hc]), DCWMAX]

theorem exec_rddcw (hf : s.flag .dcwv = true) (i : Byte) :
    exec (.rddcw i) s = check (i.toNat < s.dlen.toNat) .operandRange (encode (.rddcw i)) s
      (reading s.dcw[i.toNat]? (.absentEntry .dcw) fun b => .next (s.setRes b)) := by
  rw [exec, execRddcw, command_inOrder he _ (by simp [hf])]

theorem exec_rdecw (hf : s.flag .ecwv = true) (i : Byte) :
    exec (.rdecw i) s = check (i.toNat < s.elen.toNat) .operandRange (encode (.rdecw i)) s
      (reading s.ecw[i.toNat]? (.absentEntry .ecw) fun b => .next (s.setRes b)) := by
  rw [exec, execRdecw, command_inOrder he _ (by simp [hf])]

theorem exec_rdgen {n : BitVec 5} (hf : s.flag .genv = true) (hn : s.gendeg = some n) (i : Byte) :
    exec (.rdgen i) s = check (i.toNat ≤ n.toNat) .operandRange (encode (.rdgen i)) s
      (reading s.gen (.noValue .gen) fun gen =>
        reading gen[i.toNat]? (.absentEntry .gen) fun b => .next (s.setRes b)) := by
  rw [exec, execRdgen, command_inOrder he _ (by simp [hf]), reading_of_eq_some hn]

theorem exec_rdbit {n : BitVec 8} (hf : s.flag .asmv = true) (hn : s.bitlen = some n) (i : Byte) :
    exec (.rdbit i) s = check (i.toNat < n.toNat) .operandRange (encode (.rdbit i)) s
      (reading s.bits[i.toNat]? (.absentEntry .bits) fun b => .next (s.setRes (BitVec.ofBool b))) := by
  rw [exec, execRdbit, command_inOrder he _ (by simp [hf]), reading_of_eq_some hn]

theorem exec_rdcell (r c : BitVec 5) :
    exec (.rdcell r c) s = check (inGrid r.toNat c.toNat) .operandRange (encode (.rdcell r c)) s
      (.next (s.setRes (s.g.read r.toNat c.toNat).code)) := by
  rw [exec, execRdcell, command_inOrder he _ rfl]

theorem exec_rdfunc (r c : BitVec 5) :
    exec (.rdfunc r c) s = check (inGrid r.toNat c.toNat) .operandRange (encode (.rdfunc r c)) s
      (.next (s.setRes (BitVec.ofBool (isFunction r.toNat c.toNat)))) := by
  rw [exec, execRdfunc, command_inOrder he _ rfl]

end InOrder

/-! ## Starting a request (R101, R102) -/

/-- Settles O25: NEWREQ leaves the reset value of every field. -/
theorem newreqRestoresReset : Obligations.NewreqRestoresReset := ⟨rfl, fun _ => rfl⟩

/-- Settles O26: the flag LVLV gates the command, then the token decides. -/
theorem setlvlTakesToken : Obligations.SetlvlTakesToken := by
  refine ⟨encodeB1_eq_add 0x02, fun s he => ⟨fun hl t => ?_, fun hl => ?_⟩⟩
  · exact exec_outOfOrder he nofun (by simp [inOrder, needsZero, hl])
  · have token := exec_setlvl he hl
    refine ⟨token _, token _, token _, token _, fun t hL hM hQ hH => ?_⟩
    have hnone : levelOfToken t = none := by rw [levelOfToken, if_neg hL, if_neg hM, if_neg hQ, if_neg hH]
    rw [token, hnone, checkSome_none]
    rfl

/-! ## Giving the request's data (R103, R104) -/

/-- Settles O27: the flags, then the range of the code point, then the room in MSG. -/
theorem msgchAppends : Obligations.MsgchAppends := by
  refine ⟨encodeCP_eq_add 0x03, fun s cp he => ⟨fun h => ?_, fun hm hr => ?_⟩⟩
  · exact exec_outOfOrder he nofun (by rcases h with h | h <;> simp [inOrder, needsZero, h])
  refine ⟨fun hcp => ?_, fun hcp hlen => ?_, fun hcp hlen hmsg => ?_⟩ <;> rw [exec_msgch he hm hr]
  · exact check_of_not (Nat.not_le.mpr hcp)
  · exact (check_of hcp).trans (check_of_not (Nat.not_lt.mpr hlen))
  · rw [check_of hcp, check_of hlen, appended_of_length hmsg]

/-- Settles O28: the flags, then the room in DCW. -/
theorem dcwpushAppends : Obligations.DcwpushAppends := by
  refine ⟨encodeB1_eq_add 0x04, fun s b he => ⟨fun h => ?_, fun hm hc => ?_⟩⟩
  · exact exec_outOfOrder he nofun (by rcases h with h | h <;> simp [inOrder, needsZero, h])
  refine ⟨fun hlen => ?_, fun hlen hdcw => ?_⟩ <;> rw [exec_dcwpush he hm hc]
  · exact check_of_not (Nat.not_lt.mpr hlen)
  · have hflags : statusWith (statusWith s.status .dcwv) .raw = s.status ||| 0x0810 := BitVec.or_assoc _ _ _
    rw [check_of hlen, appended_of_length hdcw, ← hflags]
    rfl

/-! ## Reading codewords, coefficients and bits (R105 to R108) -/

/-- Settles O29: the flag, then the length register, then the entry. -/
theorem rddcwRdecwReadCodewords : Obligations.RddcwRdecwReadCodewords := by
  refine ⟨fun i => ⟨encodeB1_eq_add 0x08 i, encodeB1_eq_add 0x09 i⟩, fun s i b he => ⟨fun hf => ?_, fun hf hi => ?_,
    fun hf hi hb => ?_, fun hf => ?_, fun hf hi => ?_, fun hf hi hb => ?_⟩⟩
  · exact exec_outOfOrder he nofun (by simp [inOrder, needsOne, hf])
  · exact (exec_rddcw he hf i).trans (check_of_not (Nat.not_lt.mpr hi))
  · exact (exec_rddcw he hf i).trans ((check_of hi).trans (reading_of_eq_some hb))
  · exact exec_outOfOrder he nofun (by simp [inOrder, needsOne, hf])
  · exact (exec_rdecw he hf i).trans (check_of_not (Nat.not_lt.mpr hi))
  · exact (exec_rdecw he hf i).trans ((check_of hi).trans (reading_of_eq_some hb))

/-- Settles O30: the flag, then GENDEG (the last index) or BITLEN (one past it), then the entry. -/
theorem rdgenRdbitReadEntries : Obligations.RdgenRdbitReadEntries := by
  refine ⟨fun i => ⟨encodeB1_eq_add 0x0A i, encodeB1_eq_add 0x0B i⟩, fun s i he => ⟨fun hf => ?_, fun n hf hn hi => ?_,
    fun n gen b hf hn hi hgen hb => ?_, fun hf => ?_, fun n hf hn hi => ?_, fun n b hf hn hi hb => ?_⟩⟩
  · exact exec_outOfOrder he nofun (by simp [inOrder, needsOne, hf])
  · exact (exec_rdgen he hf hn i).trans (check_of_not (Nat.not_le.mpr hi))
  · rw [exec_rdgen he hf hn, check_of hi, reading_of_eq_some hgen, reading_of_eq_some hb]
    rfl
  · exact exec_outOfOrder he nofun (by simp [inOrder, needsOne, hf])
  · exact (exec_rdbit he hf hn i).trans (check_of_not (Nat.not_lt.mpr hi))
  · rw [exec_rdbit he hf hn, check_of hi, reading_of_eq_some hb, ← setWidth_ofBool]
    rfl

/-! ## Reading the grid (R109, R110) -/

/-- The legal coordinates are 0 to 20 (R65). -/
theorem inGrid_iff {r c : Nat} : inGrid r c = true ↔ r ≤ 20 ∧ c ≤ 20 := by
  simp [inGrid]

/-- The function predicate as the zones and lines of R196. -/
theorem isFunction_iff {r c : Nat} : isFunction r c = true ↔
    (r ≤ 8 ∧ c ≤ 8) ∨ (r ≤ 8 ∧ 13 ≤ c) ∨ (13 ≤ r ∧ c ≤ 8) ∨ r = 6 ∨ c = 6 := by
  simp [isFunction, or_assoc]

/-- Settles O31: the coordinates are checked; then RES takes the code of the cell, or the predicate as a bit. -/
theorem rdcellRdfuncReadGrid : Obligations.RdcellRdfuncReadGrid := by
  refine ⟨fun r c => ⟨encodeRC_eq_add 0x0C r c, encodeRC_eq_add 0x0D r c⟩,
    fun s r c he => ⟨fun h => ?_, fun hr hc => ?_⟩⟩
  · have hout : inGrid r.toNat c.toNat = false := by
      rw [← Bool.not_eq_true, inGrid_iff]
      omega
    rw [exec_rdcell he, exec_rdfunc he, hout]
    exact ⟨rfl, rfl⟩
  · rw [exec_rdcell he, exec_rdfunc he, inGrid_iff.mpr ⟨hr, hc⟩, check_true, check_true]
    refine ⟨fun hcell => by rw [hcell]; rfl, fun hcell => by rw [hcell]; rfl, fun hcell => by rw [hcell]; rfl, ?_⟩
    simp only [← isFunction_iff, ← setWidth_ofBool]
    rfl

end Sys2Proof.Proofs

/-! # The field unit

Everything about the product rests on one fact, `gfMul_of_log`: to multiply by x is to double (R121) as many times as
the logarithm of x says. Doubling is additive, and so are the products, and a product is a sum of doubled multiplicands,
which is carry-less multiplication. -/

namespace Sys2Proof.Proofs

open Sys2Proof.Machine Sys2Proof.Safety

/-! ## Doubling (R121) -/

/-- What the reduction by 285 = 0x11D leaves in the byte when its top bit falls out of a left shift. -/
def overflow (v : Byte) : Byte := if v.msb then 0x1D else 0

/-- One step of the procedure of R121 on a byte. -/
def double (v : Byte) : Byte := v <<< 1 ^^^ overflow v

theorem toNat_double : ∀ v : Byte,
    (double v).toNat = if v.toNat * 2 ≤ 255 then v.toNat * 2 else (v.toNat * 2) ^^^ 285 := by decide +kernel

/-- `double` is the step of `doubling`. -/
theorem doubling_eq_iterate_double (n : Nat) : doubling n = (double^[n] 1).toNat := by
  induction n with
  | zero => rfl
  | succ n ih =>
    rw [Function.iterate_succ_apply', toNat_double, doubling, ih]
    split <;> split <;> omega

theorem overflow_xor (x y : Byte) : overflow (x ^^^ y) = overflow x ^^^ overflow y := by
  simp only [overflow, BitVec.msb_xor]
  cases x.msb <;> cases y.msb <;> rfl

theorem double_gfAdd (x y : Byte) : double (gfAdd x y) = gfAdd (double x) (double y) := by
  simp only [double, gfAdd, overflow_xor, BitVec.shiftLeft_xor_distrib]
  ac_rfl

theorem iterate_double_gfAdd (n : Nat) (x y : Byte) :
    double^[n] (gfAdd x y) = gfAdd (double^[n] x) (double^[n] y) := by
  induction n with
  | zero => rfl
  | succ n ih => simp only [Function.iterate_succ_apply', ih, double_gfAdd]

theorem double_eq_zero : ∀ v : Byte, double v = 0 ↔ v = 0 := by decide +kernel

theorem iterate_double_eq_zero (n : Nat) (v : Byte) : double^[n] v = 0 ↔ v = 0 := by
  induction n with
  | zero => rfl
  | succ n ih => rw [Function.iterate_succ_apply', double_eq_zero, ih]

theorem iterate_double_zero (n : Nat) : double^[n] 0 = 0 := (iterate_double_eq_zero n 0).mpr rfl

/-! ## The tables (R122, R123) -/

/-- Each entry of EXP is the double of the one before it. -/
theorem expRom_succ : ∀ i : Byte, i.toNat < 255 → expRom (i + 1) = double (expRom i) := by decide +kernel

theorem expRom_eq_iterate_double (i : Byte) : expRom i = double^[i.toNat] 1 := by
  have upTo : ∀ n < 256, expRom (BitVec.ofNat 8 n) = double^[n] 1 := by
    intro n hn
    induction n with
    | zero => rfl
    | succ n ih =>
      have hlt : (BitVec.ofNat 8 n).toNat < 255 := by rw [BitVec.toNat_ofNat]; omega
      rw [Function.iterate_succ_apply', ← ih (by omega), ← expRom_succ _ hlt, BitVec.ofNat_add]
      rfl
  rw [← upTo i.toNat i.isLt, BitVec.ofNat_toNat, BitVec.setWidth_eq]

/-- EXP[255] = EXP[0]: 255 doublings of 1 give 1 again (R121). -/
theorem double_periodic : Function.IsPeriodicPt double 255 1 := (expRom_eq_iterate_double 255).symm

/-- EXP read at a sum of logarithms reduced mod 255, as gf_mul reads it (R126). -/
theorem expRom_mod (n : Nat) : expRom (BitVec.ofNat 8 (n % 255)) = double^[n] 1 := by
  rw [expRom_eq_iterate_double, BitVec.toNat_ofNat, Nat.mod_eq_of_lt (b := 2 ^ 8) (by omega),
    double_periodic.iterate_mod_apply]

/-- Only the entry at 1 depends on LOG1 (R123). -/
theorem logRom_eq_of_ne_one {v : Byte} (hv : v ≠ 1) (log1 log1' : Byte) : logRom log1 v = logRom log1' v := by
  rw [logRom, logRom, if_neg hv, if_neg hv]

/-- EXP undoes LOG above 1, whatever LOG1 is. -/
theorem expRom_of_logRom_of_ne_one {log1 v l : Byte} (hv : v ≠ 1) (h : logRom log1 v = some l) : expRom l = v := by
  have table : ∀ v : Byte, (logRom 0 v).all (expRom · == v) = true := by decide +kernel
  rw [logRom_eq_of_ne_one hv log1 0] at h
  exact beq_iff_eq.mp ((Option.all_eq_true _ _).mp (table v) l h)

/-- A byte is 0 or has a logarithm: the two cases of gf_mul (R126). -/
theorem zero_or_logRom (log1 v : Byte) : v = 0 ∨ ∃ l, logRom log1 v = some l :=
  or_iff_not_imp_left.mpr fun hv => Option.ne_none_iff_exists'.mp (mt (logRom_eq_none_iff log1 v).mp hv)

/-- The logarithm of a byte above 1 is an index of R121 other than the two that give 1. -/
theorem logRom_index {log1 v l : Byte} (hv : 1 < v.toNat) (h : logRom log1 v = some l) :
    1 ≤ l.toNat ∧ l.toNat ≤ 254 ∧ doubling l.toNat = v.toNat := by
  have hne : v ≠ 1 := by rintro rfl; exact absurd hv (by decide)
  have hexp : expRom l = v := expRom_of_logRom_of_ne_one hne h
  have hzero : l ≠ 0 := by rintro rfl; exact hne hexp.symm
  have hlast : l ≠ 255 := by rintro rfl; exact hne hexp.symm
  refine ⟨by bv_omega, by bv_omega, ?_⟩
  rw [doubling_eq_iterate_double, ← expRom_eq_iterate_double, hexp]

/-! ## The product as repeated doubling (R126) -/

theorem gfMul_comm (log1 x y : Byte) : gfMul log1 x y = gfMul log1 y x := by
  cases hx : logRom log1 x <;> cases hy : logRom log1 y <;> simp [gfMul, hx, hy, Nat.add_comm]

section Product

variable {log1 : Byte} (hlog : legalLog1 log1)

include hlog

/-- EXP undoes LOG (R127). -/
theorem expRom_of_logRom {v l : Byte} (h : logRom log1 v = some l) : expRom l = v := by
  by_cases hv : v = 1
  · subst hv
    obtain rfl : log1 = l := Option.some.inj h
    obtain rfl | rfl := hlog <;> rfl
  · exact expRom_of_logRom_of_ne_one hv h

theorem iterate_double_of_logRom {v l : Byte} (h : logRom log1 v = some l) : double^[l.toNat] 1 = v := by
  rw [← expRom_eq_iterate_double, expRom_of_logRom hlog h]

/-- To multiply by x is to double as often as the logarithm of x says. -/
theorem gfMul_of_log {x a : Byte} (hx : logRom log1 x = some a) (y : Byte) :
    gfMul log1 x y = double^[a.toNat] y := by
  obtain rfl | ⟨b, hb⟩ := zero_or_logRom log1 y
  · rw [gfMul_zero_right, iterate_double_zero]
  · rw [gfMul_of_logs hx hb, expRom_mod, Function.iterate_add_apply, iterate_double_of_logRom hlog hb]

theorem gfMul_one (x : Byte) : gfMul log1 x 1 = x := by
  obtain rfl | ⟨a, ha⟩ := zero_or_logRom log1 x
  · exact gfMul_zero_left log1 1
  · rw [gfMul_of_log hlog ha, iterate_double_of_logRom hlog ha]

/-- Doubling passes through a product. -/
theorem gfMul_iterate_double (x y : Byte) (n : Nat) :
    gfMul log1 x (double^[n] y) = double^[n] (gfMul log1 x y) := by
  obtain rfl | ⟨a, ha⟩ := zero_or_logRom log1 x
  · rw [gfMul_zero_left, gfMul_zero_left, iterate_double_zero]
  · simp only [gfMul_of_log hlog ha, ← Function.iterate_add_apply, Nat.add_comm]

theorem gfMul_iterate_double_one (x : Byte) (n : Nat) : gfMul log1 x (double^[n] 1) = double^[n] x := by
  rw [gfMul_iterate_double hlog, gfMul_one hlog]

theorem gfMul_assoc (x y z : Byte) : gfMul log1 (gfMul log1 x y) z = gfMul log1 x (gfMul log1 y z) := by
  obtain rfl | ⟨a, ha⟩ := zero_or_logRom log1 x
  · simp only [gfMul_zero_left]
  · rw [gfMul_of_log hlog ha, gfMul_of_log hlog ha, gfMul_comm, gfMul_iterate_double hlog, gfMul_comm]

theorem gfMul_gfAdd (x y z : Byte) :
    gfMul log1 x (gfAdd y z) = gfAdd (gfMul log1 x y) (gfMul log1 x z) := by
  obtain rfl | ⟨a, ha⟩ := zero_or_logRom log1 x
  · simp only [gfMul_zero_left, gfAdd_self]
  · simp only [gfMul_of_log hlog ha, iterate_double_gfAdd]

theorem gfMul_eq_zero (x y : Byte) : gfMul log1 x y = 0 ↔ x = 0 ∨ y = 0 := by
  by_cases hx : x = 0
  · simp only [hx, gfMul_zero_left, true_or]
  · obtain ⟨a, ha⟩ := (zero_or_logRom log1 x).resolve_left hx
    simp only [gfMul_of_log hlog ha, iterate_double_eq_zero, hx, false_or]

theorem toNat_gfMul_two (x : Byte) :
    (gfMul log1 x 2).toNat = if x.toNat * 2 ≤ 255 then x.toNat * 2 else (x.toNat * 2) ^^^ 285 := by
  have hdouble : gfMul log1 x 2 = double x := gfMul_iterate_double_one hlog x 1
  rw [hdouble, toNat_double]

end Product

/-! ## The product as carry-less multiplication (R127) -/

/-- Reduction is additive: each of its steps is. -/
theorem reducedModulo_xor (p q : Nat) : reducedModulo (p ^^^ q) = reducedModulo p ^^^ reducedModulo q := by
  unfold reducedModulo
  generalize [14, 13, 12, 11, 10, 9, 8] = ks
  induction ks generalizing p q with
  | nil => rfl
  | cons k ks ih =>
    simp only [List.foldl_cons, ← ih, Nat.testBit_xor]
    congr 1
    cases p.testBit k <;> cases q.testBit k
    · simp
    · simp [Nat.xor_assoc]
    · simp [Nat.xor_assoc, Nat.xor_comm q]
    · simp [Nat.xor_assoc]

/-- A shifted byte reduces to the byte doubled as often. -/
theorem reducedModulo_shiftLeft : ∀ k < 8, ∀ x : Byte,
    reducedModulo (x.toNat <<< k) = (double^[k] x).toNat := by decide +kernel

/-- The bits of a byte, summed up as the multiples of 1 that `carrylessProduct` selects. -/
def bitSum (y : Byte) : Byte :=
  (List.range 8).foldl (fun v k => if y.toNat.testBit k then gfAdd v (double^[k] 1) else v) 0

theorem bitSum_eq : ∀ y : Byte, bitSum y = y := by decide +kernel

theorem toNat_gfMul {log1 : Byte} (hlog : legalLog1 log1) (x y : Byte) :
    (gfMul log1 x y).toNat = reducedModulo (carrylessProduct x.toNat y.toNat) := by
  conv_lhs => rw [← bitSum_eq y]
  unfold bitSum carrylessProduct
  apply List.foldl_rel (r := fun v p => (gfMul log1 x v).toNat = reducedModulo p)
  · rw [gfMul_zero_right]; rfl
  · intro k hk v p hvp
    split
    · rw [gfMul_gfAdd hlog, gfMul_iterate_double_one hlog, reducedModulo_xor, ← hvp,
        reducedModulo_shiftLeft k (List.mem_range.mp hk)]
      exact BitVec.toNat_xor _ _
    · exact hvp

/-- Settles O34: the laws, each from the product as repeated doubling. -/
theorem fieldLaws : Obligations.FieldLaws := fun log1 hlog x y z =>
  ⟨gfMul_comm log1 x y, gfMul_one hlog x, gfMul_zero_right log1 x, fun _ => expRom_of_logRom hlog,
    gfMul_assoc hlog x y z, gfMul_gfAdd hlog x y z, gfMul_eq_zero hlog x y, toNat_gfMul_two hlog x,
    toNat_gfMul hlog x y⟩

/-! ## The commands (R128 to R131) -/

theorem encodeB2_eq_add (op : BitVec 8) (a b : Byte) :
    encodeB2 op a b = op.setWidth 32 <<< 24 + (a.setWidth 32 <<< 8) + b.setWidth 32 := by
  have h : (encodeB2 op a b).toNat = (((op ++ (0 : BitVec 8)) ++ a) ++ b).toNat := rfl
  simp only [toNat_append_eq_add] at h
  apply BitVec.eq_of_toNat_eq
  simp [h, Nat.shiftLeft_eq]
  omega

section Commands

variable {s : State} (he : s.err = 0)

include he

theorem exec_gfexp (i : Byte) : exec (.gfexp i) s = .next (s.setRes (expRom i)) := by
  rw [exec, execGfexp, command_inOrder he _ rfl]

theorem exec_gflog (v : Byte) :
    exec (.gflog v) s = checkSome (logRom s.cfg.log1 v) .logZero (encode (.gflog v)) s
      fun l => .next (s.setRes l) := by
  rw [exec, execGflog, command_inOrder he _ rfl]

theorem exec_gfadd (a b : Byte) : exec (.gfadd a b) s = .next (s.setRes (gfAdd a b)) := by
  rw [exec, execGfadd, command_inOrder he _ rfl]

theorem exec_gfmul (a b : Byte) : exec (.gfmul a b) s = .next (s.setRes (gfMul s.cfg.log1 a b)) := by
  rw [exec, execGfmul, command_inOrder he _ rfl]

end Commands

/-- Settles O32: EXP holds the doublings; LOG has no entry at 0, LOG1 at 1 and an index of R121 above. -/
theorem gfexpGflogReadTables : Obligations.GfexpGflogReadTables := by
  refine ⟨fun i => ⟨encodeB1_eq_add 0x10 i, encodeB1_eq_add 0x11 i⟩,
    fun s he => ⟨fun i => ?_, ?_, exec_gflog he 1, fun v hv => ?_⟩⟩
  · rw [exec_gfexp he, doubling_eq_iterate_double, ← expRom_eq_iterate_double, BitVec.ofNat_toNat]
    rfl
  · rw [exec_gflog he, logRom_zero, checkSome_none]
    rfl
  · have hv0 : v ≠ 0 := by rintro rfl; exact absurd hv (by decide)
    obtain ⟨l, hl⟩ := (zero_or_logRom s.cfg.log1 v).resolve_left hv0
    obtain ⟨hlow, hhigh, hdoubling⟩ := logRom_index hv hl
    refine ⟨l, hlow, hhigh, hdoubling, ?_⟩
    rw [exec_gflog he, hl]
    rfl

/-- Settles O33: RES takes the sum, or the product of the field, which is carry-less multiplication. -/
theorem gfaddGfmulCompute : Obligations.GfaddGfmulCompute := by
  refine ⟨fun a b => ⟨encodeB2_eq_add 0x12 a b, encodeB2_eq_add 0x13 a b⟩,
    fun s a b he hlog => ⟨exec_gfadd he a b, ?_⟩⟩
  rw [exec_gfmul he, ← toNat_gfMul hlog, BitVec.ofNat_toNat]
  rfl

end Sys2Proof.Proofs

/-! # The Reed-Solomon unit

The value of a polynomial at a point is additive in its coefficients and turns a scaled polynomial into a scaled value.
So a round of rs_gen multiplies the value by (x − root), and a round of the division leaves the value at each root of
the generator as it was. A round of the division is itself additive, which makes rs_encode linear. -/

namespace Sys2Proof.Proofs

open Sys2Proof.Machine Sys2Proof.Safety

/-! ## Adding and scaling polynomials (R125, R140) -/

theorem zipWith_gfAdd_zeros (p : List Byte) : List.zipWith gfAdd p (List.replicate p.length 0) = p := by
  induction p with
  | nil => rfl
  | cons c p ih => rw [List.length_cons, List.replicate_succ, List.zipWith_cons_cons, ih, gfAdd_zero]

theorem zeros_zipWith_gfAdd (p : List Byte) : List.zipWith gfAdd (List.replicate p.length 0) p = p := by
  rw [List.zipWith_comm_of_comm gfAdd_comm, zipWith_gfAdd_zeros]

theorem xorInto_nil (buf : List Byte) : xorInto buf [] = buf := by cases buf <;> rfl

theorem xorInto_zeros (buf : List Byte) (n : Nat) : xorInto buf (List.replicate n 0) = buf := by
  induction buf generalizing n with
  | nil => cases n <;> rfl
  | cons b buf ih =>
    cases n with
    | zero => rfl
    | succ n => rw [List.replicate_succ, xorInto, ih, gfAdd_zero]

/-- XORing a list into one no shorter is adding it, filled up with zeros. -/
theorem xorInto_eq_zipWith {buf v : List Byte} (h : v.length ≤ buf.length) :
    xorInto buf v = List.zipWith gfAdd buf (v ++ List.replicate (buf.length - v.length) 0) := by
  induction v generalizing buf with
  | nil => rw [xorInto_nil, List.nil_append, List.length_nil, Nat.sub_zero, zipWith_gfAdd_zeros]
  | cons c v ih =>
    cases buf with
    | nil => exact absurd h (by simp)
    | cons b buf =>
      rw [xorInto, ih (Nat.le_of_succ_le_succ h), List.length_cons, List.length_cons, Nat.add_sub_add_right]
      rfl

theorem gfAdd_gfAdd_gfAdd_comm (a b c d : Byte) :
    gfAdd (gfAdd a b) (gfAdd c d) = gfAdd (gfAdd a c) (gfAdd b d) := by
  simp only [gfAdd]; ac_rfl

/-- XORing in is additive. -/
theorem xorInto_zipWith (a b : List Byte) {u v : List Byte} (hab : a.length = b.length) (huv : u.length = v.length) :
    xorInto (List.zipWith gfAdd a b) (List.zipWith gfAdd u v) = List.zipWith gfAdd (xorInto a u) (xorInto b v) := by
  induction a generalizing b u v with
  | nil =>
    obtain rfl := List.length_eq_zero_iff.mp hab.symm
    cases u <;> rfl
  | cons x a ih =>
    cases b with
    | nil => exact absurd hab (by simp)
    | cons y b =>
      cases u with
      | nil =>
        obtain rfl := List.length_eq_zero_iff.mp huv.symm
        rfl
      | cons c u =>
        cases v with
        | nil => exact absurd huv (by simp)
        | cons d v =>
          simp only [List.zipWith_cons_cons, xorInto, gfAdd_gfAdd_gfAdd_comm,
            ih b (Nat.succ_inj.mp hab) (Nat.succ_inj.mp huv)]

/-- A polynomial times a constant: the line that rs_gen and the division XOR in (R141, R143). -/
def scaled (log1 c : Byte) (p : List Byte) : List Byte := p.map fun a => gfMul log1 a c

@[simp] theorem scaled_length (log1 c : Byte) (p : List Byte) : (scaled log1 c p).length = p.length :=
  List.length_map _

theorem scaled_zero (log1 : Byte) (p : List Byte) : scaled log1 0 p = List.replicate p.length 0 := by
  simp only [scaled, gfMul_zero_right, List.map_const']

theorem mulByRoot_eq (log1 root : Byte) (g : List Byte) :
    mulByRoot log1 root g = List.zipWith gfAdd (g ++ [0]) (0 :: scaled log1 root g) := rfl

/-- The generator is monic. -/
theorem rsGen_eq_cons (log1 : Byte) (n : Nat) : rsGen log1 n = 1 :: (rsGen log1 n).tail := by
  induction n with
  | zero => rfl
  | succ n ih => rw [rsGen, ih]; rfl

/-- A round of the division XORs the scaled generator in, without the coefficient that becomes 0. For a leading
coefficient 0 the scaled generator is 0, so the test of R143 only saves the work. -/
theorem rsDivide_cons (log1 : Byte) (g : List Byte) (k : Nat) (coef : Byte) (rest : List Byte) :
    rsDivide log1 g (k + 1) (coef :: rest) = rsDivide log1 g k (xorInto rest (scaled log1 coef g.tail)) := by
  rw [rsDivide]
  split
  next h => rw [h, scaled_zero, xorInto_zeros]
  next =>
    cases g with
    | nil => rw [List.tail_nil, scaled, List.map_nil, xorInto_nil, xorInto_nil, List.tail_cons]
    | cons c g => rfl

/-! ## The value of a polynomial at a point (R140) -/

/-- One step of the evaluation: what `valueAt` folds with. -/
def hornerStep (log1 x v c : Byte) : Byte := gfAdd (gfMul log1 v x) c

theorem valueAt_eq_foldl (log1 : Byte) (p : List Byte) (x : Byte) : valueAt log1 p x = p.foldl (hornerStep log1 x) 0 :=
  rfl

theorem valueAt_append (log1 : Byte) (p q : List Byte) (x : Byte) :
    valueAt log1 (p ++ q) x = q.foldl (hornerStep log1 x) (valueAt log1 p x) := List.foldl_append

/-- Leading zeros do not count. -/
theorem valueAt_zero_cons (log1 : Byte) (p : List Byte) (x : Byte) : valueAt log1 (0 :: p) x = valueAt log1 p x := by
  rw [valueAt_eq_foldl, List.foldl_cons, hornerStep, gfMul_zero_left, gfAdd_self, valueAt_eq_foldl]

theorem foldl_hornerStep_zeros (log1 x : Byte) (n : Nat) : (List.replicate n 0).foldl (hornerStep log1 x) 0 = 0 := by
  induction n with
  | zero => rfl
  | succ n ih => rw [List.replicate_succ, List.foldl_cons, hornerStep, gfMul_zero_left, gfAdd_self, ih]

section Value

variable {log1 : Byte} (hlog : legalLog1 log1)

include hlog

theorem gfMul_gfAdd_left (x y z : Byte) :
    gfMul log1 (gfAdd x y) z = gfAdd (gfMul log1 x z) (gfMul log1 y z) := by
  simp only [gfMul_comm log1 _ z, gfMul_gfAdd hlog]

theorem one_gfMul (x : Byte) : gfMul log1 1 x = x := by
  rw [gfMul_comm, gfMul_one hlog]

theorem scaled_one (p : List Byte) : scaled log1 1 p = p := by
  simp only [scaled, gfMul_one hlog, List.map_id']

theorem scaled_gfAdd (c d : Byte) (p : List Byte) :
    scaled log1 (gfAdd c d) p = List.zipWith gfAdd (scaled log1 c p) (scaled log1 d p) := by
  simp only [scaled, List.zipWith_map, List.zipWith_self, gfMul_gfAdd hlog]

/-- Evaluation is additive, in the polynomial and in the value it starts from. -/
theorem foldl_hornerStep_zipWith (x v w : Byte) {p q : List Byte} (h : p.length = q.length) :
    (List.zipWith gfAdd p q).foldl (hornerStep log1 x) (gfAdd v w) =
      gfAdd (p.foldl (hornerStep log1 x) v) (q.foldl (hornerStep log1 x) w) := by
  induction p generalizing q v w with
  | nil =>
    obtain rfl := List.length_eq_zero_iff.mp h.symm
    rfl
  | cons c p ih =>
    cases q with
    | nil => exact absurd h (by simp)
    | cons d q =>
      have hstep : hornerStep log1 x (gfAdd v w) (gfAdd c d) =
          gfAdd (hornerStep log1 x v c) (hornerStep log1 x w d) := by
        rw [hornerStep, gfMul_gfAdd_left hlog, gfAdd_gfAdd_gfAdd_comm]; rfl
      rw [List.zipWith_cons_cons, List.foldl_cons, hstep, ih _ _ (Nat.succ_inj.mp h)]
      rfl

theorem valueAt_zipWith (x : Byte) {p q : List Byte} (h : p.length = q.length) :
    valueAt log1 (List.zipWith gfAdd p q) x = gfAdd (valueAt log1 p x) (valueAt log1 q x) :=
  foldl_hornerStep_zipWith hlog x 0 0 h

/-- The value of a scaled polynomial is the scaled value. -/
theorem valueAt_scaled (c : Byte) (p : List Byte) (x : Byte) :
    valueAt log1 (scaled log1 c p) x = gfMul log1 (valueAt log1 p x) c := by
  have hstep : ∀ v a, hornerStep log1 x (gfMul log1 v c) (gfMul log1 a c) = gfMul log1 (hornerStep log1 x v a) c := by
    intro v a
    rw [hornerStep, hornerStep, gfMul_gfAdd_left hlog, gfMul_assoc hlog, gfMul_comm log1 c, ← gfMul_assoc hlog]
  rw [valueAt_eq_foldl, scaled, List.foldl_map, ← gfMul_zero_left log1 c, List.foldl_hom (gfMul log1 · c) hstep]
  rfl

/-! ## The generator polynomial (R141) -/

/-- A round of rs_gen multiplies the value by (x − root). -/
theorem valueAt_mulByRoot (root : Byte) (g : List Byte) (x : Byte) :
    valueAt log1 (mulByRoot log1 root g) x = gfMul log1 (valueAt log1 g x) (gfAdd x root) := by
  have hshift : valueAt log1 (g ++ [0]) x = gfMul log1 (valueAt log1 g x) x := by
    rw [valueAt_append, List.foldl_cons, List.foldl_nil, hornerStep, gfAdd_zero]
  rw [mulByRoot_eq, valueAt_zipWith hlog x (by simp), hshift, valueAt_zero_cons, valueAt_scaled hlog,
    gfMul_gfAdd hlog]

/-- The generator vanishes at each of the roots it was built from. -/
theorem valueAt_rsGen {n i : Nat} (hi : i < n) :
    valueAt log1 (rsGen log1 n) (expRom (BitVec.ofNat 8 i)) = 0 := by
  induction n with
  | zero => exact absurd hi (Nat.not_lt_zero i)
  | succ n ih =>
    rw [rsGen, valueAt_mulByRoot hlog]
    obtain hlt | rfl := Nat.lt_succ_iff_lt_or_eq.mp hi
    · rw [ih hlt, gfMul_zero_left]
    · rw [gfAdd_self, gfMul_zero_right]

/-! ## The division (R143) -/

/-- XORing in a polynomial that vanishes at x leaves the value at x. -/
theorem valueAt_xorInto {buf v : List Byte} {x : Byte} (hlen : v.length ≤ buf.length) (hv : valueAt log1 v x = 0) :
    valueAt log1 (xorInto buf v) x = valueAt log1 buf x := by
  rw [xorInto_eq_zipWith hlen, valueAt_zipWith hlog x (by simp; omega), valueAt_append, hv, foldl_hornerStep_zeros,
    gfAdd_zero]

/-- Division by a monic polynomial keeps the value at each of its roots. -/
theorem valueAt_rsDivide {g : List Byte} {x : Byte} (hroot : valueAt log1 (1 :: g) x = 0) {k : Nat} {buf : List Byte}
    (hlen : k + g.length ≤ buf.length) : valueAt log1 (rsDivide log1 (1 :: g) k buf) x = valueAt log1 buf x := by
  induction k generalizing buf with
  | zero => rfl
  | succ k ih =>
    cases buf with
    | nil => exact absurd hlen (by simp)
    | cons coef rest =>
      rw [List.length_cons] at hlen
      have hround : xorInto (coef :: rest) (scaled log1 coef (1 :: g)) = 0 :: xorInto rest (scaled log1 coef g) := by
        rw [scaled, List.map_cons, xorInto, one_gfMul hlog, gfAdd_self]; rfl
      have hscaled : valueAt log1 (scaled log1 coef (1 :: g)) x = 0 := by
        rw [valueAt_scaled hlog, hroot, gfMul_zero_left]
      rw [rsDivide_cons, List.tail_cons, ih (by rw [xorInto_length]; omega), ← valueAt_zero_cons, ← hround,
        valueAt_xorInto hlog (by simp; omega) hscaled]

/-- The remainder has the value of the shifted data at each root of the generator. -/
theorem valueAt_rsEncode (data : List Byte) {n i : Nat} (hi : i < n) :
    valueAt log1 (rsEncode log1 data n) (expRom (BitVec.ofNat 8 i)) =
      valueAt log1 (data ++ List.replicate n 0) (expRom (BitVec.ofNat 8 i)) := by
  have hroot := valueAt_rsGen hlog hi
  rw [rsEncode, rsEncodeWith]
  rw [rsGen_eq_cons] at hroot ⊢
  exact valueAt_rsDivide hlog hroot (by simp)

/-- The division is additive. -/
theorem rsDivide_zipWith (g : List Byte) (k : Nat) {a b : List Byte} (hab : a.length = b.length) :
    rsDivide log1 g k (List.zipWith gfAdd a b) = List.zipWith gfAdd (rsDivide log1 g k a) (rsDivide log1 g k b) := by
  induction k generalizing a b with
  | zero => rfl
  | succ k ih =>
    cases a with
    | nil =>
      obtain rfl := List.length_eq_zero_iff.mp hab.symm
      rfl
    | cons x a =>
      cases b with
      | nil => exact absurd hab (by simp)
      | cons y b =>
        have hrest : a.length = b.length := Nat.succ_inj.mp hab
        rw [List.zipWith_cons_cons, rsDivide_cons, rsDivide_cons, rsDivide_cons, scaled_gfAdd hlog,
          xorInto_zipWith a b hrest (by simp), ih (by simp [hrest])]

/-! ## rs_encode (R143, R144) -/

/-- Data followed by EC codewords is the shifted data plus the remainder, and the two have one value at each root. -/
theorem valueAt_codeword (data : List Byte) {n i : Nat} (hi : i < n) :
    valueAt log1 (data ++ rsEncode log1 data n) (expRom (BitVec.ofNat 8 i)) = 0 := by
  generalize hx : expRom (BitVec.ofNat 8 i) = x
  generalize hec : rsEncode log1 data n = ec
  have hlen : ec.length = n := by rw [← hec, rsEncode, rsEncodeWith_length]
  calc valueAt log1 (data ++ ec) x
    _ = (List.zipWith gfAdd (List.replicate n 0) ec).foldl (hornerStep log1 x) (gfAdd (valueAt log1 data x) 0) := by
      rw [valueAt_append, gfAdd_zero, ← hlen, zeros_zipWith_gfAdd]
    _ = gfAdd (valueAt log1 (data ++ List.replicate n 0) x) (valueAt log1 ec x) := by
      rw [foldl_hornerStep_zipWith hlog _ _ _ (by simp [hlen]), valueAt_append]; rfl
    _ = 0 := by rw [← hec, ← hx, valueAt_rsEncode hlog data hi, gfAdd_self]

theorem rsEncode_zipWith (n : Nat) {a b : List Byte} (hab : a.length = b.length) :
    rsEncode log1 (List.zipWith gfAdd a b) n = List.zipWith gfAdd (rsEncode log1 a n) (rsEncode log1 b n) := by
  have hshift : List.zipWith gfAdd a b ++ List.replicate n 0 =
      List.zipWith gfAdd (a ++ List.replicate n 0) (b ++ List.replicate n 0) := by
    rw [List.zipWith_append hab, List.zipWith_replicate', gfAdd_self]
  have hlen : (List.zipWith gfAdd a b).length = a.length := by simp [hab]
  simp only [rsEncode, rsEncodeWith]
  rw [hshift, hlen, rsDivide_zipWith hlog _ _ (by simp [hab]), hab]

/-- One round on x^n leaves the generator without its leading 1. -/
theorem rsEncode_one (n : Nat) : rsEncode log1 [1] n = (rsGen log1 n).tail := by
  have hlen : (rsGen log1 n).tail.length = n := by simp
  calc rsEncode log1 [1] n
    _ = xorInto (List.replicate n 0) (scaled log1 1 (rsGen log1 n).tail) := rsDivide_cons _ _ 0 1 _
    _ = List.zipWith gfAdd (List.replicate n 0) (rsGen log1 n).tail := by
      rw [scaled_one hlog, xorInto_eq_zipWith (by simp), List.length_replicate, hlen, Nat.sub_self,
        List.replicate_zero, List.append_nil]
    _ = (rsGen log1 n).tail := by
      simpa only [hlen] using zeros_zipWith_gfAdd (rsGen log1 n).tail

end Value

/-- Settles O37: a round multiplies the value by (x − root) and keeps the leading 1. -/
theorem generatorDegreeAndRoots : Obligations.GeneratorDegreeAndRoots := fun log1 n hlog _ =>
  ⟨rsGen_length log1 n, by rw [rsGen_eq_cons, List.head?_cons], fun _ => valueAt_rsGen hlog⟩

/-- Settles O38: at a root the remainder has the value of the shifted data, and equal values cancel. -/
theorem codewordsDivisibleByGenerator : Obligations.CodewordsDivisibleByGenerator := fun _ data n hlog _ _ _ =>
  ⟨rsEncodeWith_length _ _ data n, fun _ => valueAt_codeword hlog data⟩

/-- Settles O39: every round of the division is additive; on the byte 1 there is one round. -/
theorem encodingIsLinear : Obligations.EncodingIsLinear := fun _ n hlog _ =>
  ⟨fun _ _ hab _ _ => rsEncode_zipWith hlog n hab, fun _ => rsEncode_one hlog n⟩

/-! ## The commands (R146 to R148) -/

section Commands

variable {s : State} (he : s.err = 0)

include he

theorem exec_rsgen (hg : s.flag .genv = false) (n : Byte) :
    exec (.rsgen n) s = check (1 ≤ n.toNat ∧ n.toNat ≤ 25) .operandRange (encode (.rsgen n)) s
      (.next (s.withGenerator n.toNat)) := by
  rw [exec, execRsgen, command_inOrder he _ (by simp [hg]), Bool.decide_and]

theorem exec_rsgenl (hl : s.flag .lvlv = true) (hg : s.flag .genv = false) {l : Level} (hlevel : s.level = some l) :
    exec .rsgenl s = .next (s.withGenerator (s.cfg.nec.get l)) := by
  rw [exec, execRsgenl, command_inOrder he _ (by simp [hl, hg]), reading_of_eq_some hlevel]

theorem exec_rsenc (hd : s.flag .dcwv = true) (hg : s.flag .genv = true) (hc : s.flag .ecwv = false) {n : BitVec 5}
    (hn : s.gendeg = some n) :
    exec .rsenc s = check (s.dlen.toNat + n.toNat ≤ 26) .operandRange (encode .rsenc) s
      (reading (entries s.dcw s.dlen.toNat) (.absentEntry .dcw) fun data =>
        reading s.gen (.noValue .gen) fun gen =>
          reading (entries gen (n.toNat + 1)) (.absentEntry .gen) fun g =>
            .next ({ s with ecw := rsEncodeWith s.cfg.log1 g data n.toNat, elen := n }.setFlag .ecwv)) := by
  rw [exec, execRsenc, command_inOrder he _ (by simp [hd, hg, hc]), reading_of_eq_some hn, TOTALCW]

end Commands

/-- Settles O35: the flags, then the range of the operand or the level, then the generator. -/
theorem rsgenRsgenlBuildGenerator : Obligations.RsgenRsgenlBuildGenerator := by
  refine ⟨encodeB1_eq_add 0x20, rfl, fun s he => ⟨fun n hg => ?_, fun n hg hn => ?_, fun n hg h1 h25 => ?_,
    fun h => ?_, fun l hl hg hlevel => exec_rsgenl he hl hg hlevel⟩⟩
  · exact exec_outOfOrder he nofun (by simp [inOrder, needsZero, hg])
  · exact (exec_rsgen he hg n).trans (check_of_not (by omega))
  · rw [exec_rsgen he hg, check_of ⟨h1, h25⟩, ← BitVec.ofNat_toNat]
    rfl
  · exact exec_outOfOrder he nofun (by rcases h with h | h <;> simp [inOrder, needsOne, needsZero, h])

/-- Settles O36: the flags, then the budget, then the division of the codewords that DLEN names by GEN. -/
theorem rsencFillsEcw : Obligations.RsencFillsEcw := by
  refine ⟨rfl, fun s he => ⟨fun h => ?_, fun n hd hg hc hn => ⟨fun hover => ?_, fun hfit hdcw hgen => ?_⟩⟩⟩
  · exact exec_outOfOrder he nofun (by rcases h with h | h | h <;> simp [inOrder, needsOne, needsZero, h])
  · exact (exec_rsenc he hd hg hc hn).trans (check_of_not (Nat.not_le.mpr hover))
  · rw [exec_rsenc he hd hg hc hn, check_of hfit, reading_of_eq_some (entries_of_length hdcw), reading_of_eq_some hgen,
      reading_of_eq_some (entries_of_length (rsGen_length _ _))]
    rfl

end Sys2Proof.Proofs

/-! # What a command never overwrites

A command that writes a product needs the product's flag to be 0 (R304), or the invariant says that it needs another
flag which a set flag rules out. So each product stays as it is under every effect that comes in its order. -/

namespace Sys2Proof.Proofs

open Sys2Proof.Machine Sys2Proof.Safety

section Products

variable {s t : State} {i : Instr}

/-- A command that needs a flag to be 0 is out of order once it is 1 (R304). -/
theorem not_inOrder_of_flag {f : Flag} (hf : s.flag f = true) (hz : f ∈ needsZero i := by simp [needsZero]) :
    inOrder i s ≠ true := fun ho => by simp [not_flag_of_inOrder ho f hz] at hf

theorem Effect.level_eq (h : Effect s i t) (ho : inOrder i s = true) (hf : s.flag .lvlv = true) :
    t.level = s.level := by
  cases h with
  | setlvl => exact absurd ho (not_inOrder_of_flag hf)
  | _ => simp

theorem Effect.message_eq (h : Effect s i t) (ho : inOrder i s = true) (hf : s.flag .modev = true) :
    t.msg = s.msg ∧ t.msglen = s.msglen ∧ t.mode = s.mode := by
  cases h with
  | msgch | bsmode => exact absurd ho (not_inOrder_of_flag hf)
  | _ => simp

theorem Effect.reqbits_eq (h : Effect s i t) (ho : inOrder i s = true) (hf : s.flag .chkv = true) :
    t.reqbits = s.reqbits := by
  cases h with
  | bschk => exact absurd ho (not_inOrder_of_flag hf)
  | _ => simp

theorem Effect.bits_eq (h : Effect s i t) (ho : inOrder i s = true) (hf : s.flag .asmv = true) (hi : i ≠ .bspad) :
    t.bits = s.bits ∧ t.bitlen = s.bitlen := by
  cases h with
  | bsasm => exact absurd ho (not_inOrder_of_flag hf)
  | bspad => exact absurd rfl hi
  | _ => simp

/-- The only writers of the data codewords are DCWPUSH and BSPAD (R35). -/
theorem Effect.data_eq (h : Effect s i t) (hpush : ∀ b, i ≠ .dcwpush b) (hpad : i ≠ .bspad) :
    t.dcw = s.dcw ∧ t.dlen = s.dlen := by
  cases h with
  | dcwpush => exact absurd rfl (hpush _)
  | bspad => exact absurd rfl hpad
  | _ => simp

theorem Effect.generator_eq (h : Effect s i t) (ho : inOrder i s = true) (hf : s.flag .genv = true) :
    t.gen = s.gen ∧ t.gendeg = s.gendeg := by
  cases h with
  | rsgen | rsgenl => exact absurd ho (not_inOrder_of_flag hf)
  | _ => simp

theorem Effect.ecw_eq (h : Effect s i t) (ho : inOrder i s = true) (hf : s.flag .ecwv = true) :
    t.ecw = s.ecw ∧ t.elen = s.elen := by
  cases h with
  | rsenc => exact absurd ho (not_inOrder_of_flag hf)
  | _ => simp

theorem Effect.writer_eq (h : Effect s i t) (ho : inOrder i s = true) (hz : s.zst = .done) :
    t.zst = s.zst ∧ t.cursor = s.cursor := by
  have hn := needsState_of_inOrder ho
  cases h with
  | zzinit | zzstep | zzrun => simp [needsState, hz] at hn
  | _ => simp

theorem Effect.best_eq (h : Effect s i t) (ho : inOrder i s = true) (hf : s.flag .done = true) :
    t.best = s.best ∧ t.bestpen = s.bestpen := by
  cases h with
  | masksel => exact absurd ho (not_inOrder_of_flag hf)
  | _ => simp

/-- Padded codewords stay: BSPAD is over, and the mode that padding rests on shuts DCWPUSH out (R104, R177). -/
theorem Effect.padded_eq (h : Effect s i t) (ho : inOrder i s = true) (hs : Parts s) (hf : s.flag .padv = true) :
    t.bits = s.bits ∧ t.bitlen = s.bitlen ∧ t.dcw = s.dcw ∧ t.dlen = s.dlen := by
  have hasm : s.flag .asmv = true := hs.message.paddedAssembled hf
  have hmode : s.flag .modev = true := hs.message.checkedHasMode (hs.message.assembledChecked hasm)
  have hpad : i ≠ .bspad := by rintro rfl; exact absurd ho (not_inOrder_of_flag hf)
  have hpush : ∀ b, i ≠ .dcwpush b := by rintro b rfl; exact absurd ho (not_inOrder_of_flag hmode)
  obtain ⟨hbits, hbitlen⟩ := h.bits_eq ho hasm hpad
  exact ⟨hbits, hbitlen, h.data_eq hpush hpad⟩

/-- Encoded codewords stay: DCWPUSH is over, and BSPAD comes only where there are no codewords yet (R177). -/
theorem Effect.codewords_eq (h : Effect s i t) (ho : inOrder i s = true) (hs : Parts s) (hf : s.flag .ecwv = true) :
    t.dcw = s.dcw ∧ t.dlen = s.dlen ∧ t.ecw = s.ecw ∧ t.elen = s.elen := by
  have hpush : ∀ b, i ≠ .dcwpush b := by rintro b rfl; exact absurd ho (not_inOrder_of_flag hf)
  have hpad : i ≠ .bspad := by
    rintro rfl
    have hraw := hs.message.raw_eq_false (flag_of_inOrder ho .asmv)
    have hnone := (hs.codeword.noCodewords hraw (not_flag_of_inOrder ho .padv)).2
    exact absurd (hf.symm.trans hnone) nofun
  obtain ⟨hdcw, hdlen⟩ := h.data_eq hpush hpad
  exact ⟨hdcw, hdlen, h.ecw_eq ho hf⟩

end Products

/-- Settles O19: an ignored command and an error write no product, and an effect in its order keeps each product whose
flag is up. -/
theorem productsAreFrozen : Obligations.ProductsAreFrozen := by
  intro i s t hinv hi h
  have hs := Parts.of_inv hinv
  obtain ⟨-, rfl⟩ | ⟨-, e, rfl⟩ | ⟨-, ho, heff⟩ := outcomes_of_exec hi h
  · simp
  · simp
  · exact ⟨heff.level_eq ho, heff.message_eq ho, heff.reqbits_eq ho, heff.bits_eq ho, heff.padded_eq ho hs,
      heff.generator_eq ho, heff.codewords_eq ho hs, fun hp => heff.writer_eq ho (hs.grid.placed.mp hp),
      heff.best_eq ho⟩

end Sys2Proof.Proofs

/-! # The bitstream unit

The value of a bit list and the bits of a value undo each other. So a field of the assembled stream is read back as the
number that was written there, and a codeword of the padded stream holds its eight bits. -/

namespace Sys2Proof.Proofs

open Sys2Proof.Machine Sys2Proof.Safety

/-! ## Bit lists and their values (R13) -/

/-- The last bit of a list is the lowest bit of its value. -/
theorem bitsValue_concat (bs : List Bool) (b : Bool) : bitsValue (bs ++ [b]) = 2 * bitsValue bs + b.toNat := by
  rw [bitsValue, List.foldl_append]
  rfl

/-- Bit j of the value of a list is the j-th bit from the end. -/
theorem testBit_bitsValue (bs : List Bool) (j : Nat) : (bitsValue bs).testBit j = bs.reverse[j]?.getD false := by
  induction bs using List.reverseRecOn generalizing j with
  | nil => simp [bitsValue]
  | append_singleton bs b ih =>
    rw [bitsValue_concat, List.reverse_append]
    cases j with
    | zero => cases b <;> simp [Nat.testBit_zero]
    | succ j =>
      have hhalf : (2 * bitsValue bs + b.toNat) / 2 = bitsValue bs := by have := b.toNat_lt; omega
      simp [Nat.testBit_succ, hhalf, ih]

/-- A number that fits in a field is what the field's bits are worth. -/
theorem bitsValue_bitsN {n v : Nat} (h : v < 2 ^ n) : bitsValue (bitsN n v) = v := by
  refine Nat.eq_of_testBit_eq fun j => ?_
  rw [testBit_bitsValue]
  by_cases hj : j < n
  · rw [List.getElem?_reverse (by simpa using hj), bitsN_length, bitsN_getElem? _ _ _ (by omega)]
    simp [show n - 1 - (n - 1 - j) = j by omega]
  · have hv : v < 2 ^ j := h.trans_le (Nat.pow_le_pow_right (by decide) (by omega))
    rw [List.getElem?_eq_none (by simpa using hj), Nat.testBit_lt_two_pow hv]
    rfl

/-- A field at the head of a list is taken whole. -/
theorem take_bitsN_append (n v : Nat) (rest : List Bool) : (bitsN n v ++ rest).take n = bitsN n v :=
  List.take_left' (bitsN_length n v)

/-- What stands behind a field at the head of a list. -/
theorem drop_bitsN_append (n v k : Nat) (rest : List Bool) : (bitsN n v ++ rest).drop (n + k) = rest.drop k := by
  simpa using List.drop_length_add_append (l₁ := bitsN n v) (l₂ := rest) k

/-- Bit 7 − k of a codeword is bit k of its eight bits of the stream. -/
theorem getElem?_eq_getLsbD_byteAt {s : List Bool} {i k : Nat} (hi : 8 * i + 8 ≤ s.length) (hk : k < 8) :
    s[8 * i + k]? = some ((byteAt s i).getLsbD (7 - k)) := by
  have hlen : ((s.drop (8 * i)).take 8).length = 8 := by simp; omega
  have hbit : ((s.drop (8 * i)).take 8).reverse[7 - k]? = s[8 * i + k]? := by
    rw [List.getElem?_reverse (by omega), hlen, show 8 - 1 - (7 - k) = k by omega, List.getElem?_take_of_lt hk,
      List.getElem?_drop]
  rw [byteAt, BitVec.getLsbD_ofNat, testBit_bitsValue, hbit, List.getElem?_eq_getElem (by omega)]
  simp
  omega

/-- Whole bytes before a list shift its bytes. -/
theorem byteAt_append_right {t u : List Bool} {m : Nat} (ht : t.length = 8 * m) (j : Nat) :
    byteAt (t ++ u) (m + j) = byteAt u j := by
  rw [byteAt, byteAt, Nat.mul_add, ← ht, List.drop_length_add_append]

theorem byteAt_bitsN_append {v : Nat} (hv : v < 2 ^ 8) (rest : List Bool) :
    byteAt (bitsN 8 v ++ rest) 0 = BitVec.ofNat 8 v := by
  rw [byteAt, Nat.mul_zero, List.drop_zero, take_bitsN_append, bitsValue_bitsN hv]

theorem packBytes_getElem? {cap i : Nat} (s : List Bool) (hi : i < cap) :
    (packBytes cap s)[i]? = some (byteAt s i) := by
  simp [packBytes, hi]

/-! ## Padding (R170 to R172) -/

/-- The pad bytes take turns (R172). -/
theorem byteAt_padBytes {k j : Nat} (first : Bool) (hj : j < k) :
    byteAt (padBytes k first) j = if first ^^ decide (j % 2 = 1) then 0xEC else 0x11 := by
  induction k generalizing j first with
  | zero => omega
  | succ k ih =>
    cases j with
    | zero =>
      rw [padBytes, byteAt_bitsN_append (by cases first <;> decide)]
      cases first <;> rfl
    | succ j =>
      have hturn : (!first ^^ decide (j % 2 = 1)) = (first ^^ decide ((j + 1) % 2 = 1)) := by
        rcases Nat.mod_two_eq_zero_or_one j with h | h <;> simp [Nat.add_mod, h]
      rw [padBytes, Nat.add_comm j 1, byteAt_append_right (m := 1) (bitsN_length 8 _), ih (!first) (by omega), hturn,
        Nat.add_comm 1 j]

/-- The bytes that n bits take up with terminator and byte boundary, in a capacity of `cap` bytes (R170, R171). -/
def paddedBytes (cap n : Nat) : Nat := (min (n + 4) (8 * cap) + 7) / 8

/-- Padding is a run of zeros up to a whole byte, and then the pad bytes (R170 to R172). -/
theorem padStream_eq {cap : Nat} {s : List Bool} (h : s.length ≤ 8 * cap) :
    padStream (8 * cap) s = s ++ List.replicate (8 * paddedBytes cap s.length - s.length) false ++
      padBytes (cap - paddedBytes cap s.length) true := by
  have hzeros : padToByte (addTerminator (8 * cap) s) =
      s ++ List.replicate (8 * paddedBytes cap s.length - s.length) false := by
    rw [padToByte, addTerminator_length, addTerminator, List.append_assoc, List.replicate_append_replicate, TERMMAX,
      paddedBytes]
    congr 2
    omega
  have hrest : (8 * cap - (s.length + (8 * paddedBytes cap s.length - s.length))) / 8 =
      cap - paddedBytes cap s.length := by rw [paddedBytes]; omega
  simp only [padStream, hzeros, List.length_append, List.length_replicate, hrest]

/-- Settles O45: the stream is the given bits, the zeros and the pad bytes, one after another. -/
theorem paddedStreamFillsCapacity : Obligations.PaddedStreamFillsCapacity := by
  intro cap s h
  have hlen := padStream_length h
  have hbytes : s.length ≤ 8 * paddedBytes cap s.length := by rw [paddedBytes]; omega
  refine ⟨hlen, ?_, packBytes_length _ _, fun k hk hcap hzero => ?_, fun j hj => ?_, fun i k b hi hk hb => ?_⟩
  · rw [padStream_eq h, List.append_assoc, List.take_left]
  · have hk' : k < 8 * paddedBytes cap s.length := by rw [paddedBytes]; omega
    rw [padStream_eq h, List.getElem?_append_left (by simp; omega), List.getElem?_append_right hk,
      List.getElem?_replicate_of_lt (by omega)]
  · have hwhole : (s ++ List.replicate (8 * paddedBytes cap s.length - s.length) false).length =
        8 * paddedBytes cap s.length := by simp; omega
    have hj' : j < cap - paddedBytes cap s.length := by rw [paddedBytes]; omega
    rw [packBytes_getElem? _ hj, padStream_eq h]
    refine congrArg some ((byteAt_append_right hwhole j).trans ((byteAt_padBytes true hj').trans ?_))
    rcases Nat.mod_two_eq_zero_or_one j with hpar | hpar <;> simp [hpar]
  · obtain rfl := Option.some.inj ((packBytes_getElem? _ hi).symm.trans hb)
    exact getElem?_eq_getLsbD_byteAt (by omega) hk

/-! ## The characters of a message (R161 to R163) -/

/-- A character has a value exactly when CFG.ALNUM lists it. -/
theorem alnumValue_isSome_iff {c : Config} {cp : CodePoint} :
    (alnumValue c cp).isSome = true ↔ ∃ v, (cp, v) ∈ c.alnum := by
  simp [alnumValue, List.find?_isSome]

/-- The map CFG.ALNUM lists each character once and its values are at most 44 (R10). -/
theorem alnum_of_wf {c : Config} (h : c.wf = true) :
    (c.alnum.map (·.1)).Nodup ∧ ∀ e ∈ c.alnum, e.2 ≤ 44 := by
  obtain ⟨halnum, -⟩ := checks_of_wf h
  simp only [Config.alnumWf, Bool.and_eq_true, decide_eq_true_eq, List.all_eq_true, List.mem_map] at halnum
  obtain ⟨⟨⟨⟨-, hkeys⟩, -⟩, -⟩, hvalues⟩ := halnum
  exact ⟨hkeys, fun e he => hvalues e.2 ⟨e, he, rfl⟩⟩

/-- Under a well-formed CFG the listed value of a character is its value, and it is at most 44. -/
theorem alnumValue_of_mem {c : Config} (h : c.wf = true) {cp : CodePoint} {v : Nat} (hv : (cp, v) ∈ c.alnum) :
    alnumValue c cp = some v ∧ v ≤ 44 := by
  obtain ⟨hkeys, hvalues⟩ := alnum_of_wf h
  obtain ⟨w, hw⟩ := Option.isSome_iff_exists.mp (alnumValue_isSome_iff.mpr ⟨v, hv⟩)
  obtain ⟨e, he, rfl⟩ := Option.map_eq_some_iff.mp hw
  have hkey : e.1 = cp := by simpa using List.find?_some he
  obtain rfl : e = (cp, v) := List.inj_on_of_nodup_map hkeys (List.mem_of_find?_eq_some he) hv hkey
  exact ⟨hw, hvalues _ hv⟩

theorem detectMode_eq_alphanumeric_iff {c : Config} {msg : List CodePoint} :
    detectMode c msg = .alphanumeric ↔ ∀ cp ∈ msg, ∃ v, (cp, v) ∈ c.alnum := by
  simp only [← alnumValue_isSome_iff, detectMode]
  split <;> simp_all

theorem detectMode_eq_byte_iff {c : Config} {msg : List CodePoint} :
    detectMode c msg = .byte ↔ ∃ cp ∈ msg, ∀ v, (cp, v) ∉ c.alnum := by
  have hmode : detectMode c msg = .byte ↔ ¬ detectMode c msg = .alphanumeric := by cases detectMode c msg <;> simp
  rw [hmode, detectMode_eq_alphanumeric_iff]
  simp

theorem checkBytes_iff {msg : List CodePoint} : checkBytes msg = true ↔ ∀ cp ∈ msg, cp.toNat ≤ 255 := by
  simp [checkBytes]

/-! ## Assembly (R166 to R169) -/

/-- A payload that begins with a pair is the pair's 11 bits and the payload of the rest (R167). -/
theorem payloadAlnum_pair {c : Config} {a b : CodePoint} {rest : List CodePoint} {bs : List Bool} :
    payloadAlnum c (a :: b :: rest) = some bs ↔ ∃ x y tail, alnumValue c a = some x ∧ alnumValue c b = some y ∧
      payloadAlnum c rest = some tail ∧ bitsN PAIRBITS (45 * x + y) ++ tail = bs := by
  rw [payloadAlnum]
  split <;> simp_all

/-- The payload exists when every character has a value (R167). -/
theorem payloadAlnum_exists {c : Config} : ∀ {msg : List CodePoint},
    (∀ cp ∈ msg, (alnumValue c cp).isSome = true) → ∃ bs, payloadAlnum c msg = some bs
  | [], _ => ⟨[], rfl⟩
  | [a], h => by
    obtain ⟨x, hx⟩ := Option.isSome_iff_exists.mp (h a (by simp))
    exact ⟨bitsN ODDBITS x, by simp [payloadAlnum, hx]⟩
  | a :: b :: rest, h => by
    obtain ⟨x, hx⟩ := Option.isSome_iff_exists.mp (h a (by simp))
    obtain ⟨y, hy⟩ := Option.isSome_iff_exists.mp (h b (by simp))
    obtain ⟨tail, htail⟩ := payloadAlnum_exists (msg := rest) fun cp hcp => h cp (by simp [hcp])
    exact ⟨_, payloadAlnum_pair.mpr ⟨x, y, tail, hx, hy, htail, rfl⟩⟩

/-- Behind p pairs stands the payload of the characters behind them. -/
theorem payloadAlnum_drop {c : Config} (p : Nat) {msg : List CodePoint} {bs : List Bool}
    (h : payloadAlnum c msg = some bs) : payloadAlnum c (msg.drop (2 * p)) = some (bs.drop (PAIRBITS * p)) := by
  induction p generalizing msg bs with
  | zero => exact h
  | succ p ih =>
    match msg with
    | [] | [_] =>
      have hshort : bs.length ≤ PAIRBITS * (p + 1) := by
        simp only [payloadAlnum_length h, List.length, PAIRBITS, ODDBITS]
        omega
      rw [List.drop_eq_nil_of_le hshort]
      rfl
    | a :: b :: rest =>
      obtain ⟨x, y, tail, -, -, htail, rfl⟩ := payloadAlnum_pair.mp h
      rw [Nat.mul_add_one, Nat.mul_add_one, Nat.add_comm (PAIRBITS * p), drop_bitsN_append]
      exact ih htail

/-- Behind i characters stands the payload of the characters behind them. -/
theorem payloadByte_drop (i : Nat) (msg : List CodePoint) :
    (payloadByte msg).drop (BYTEBITS * i) = payloadByte (msg.drop i) := by
  induction i generalizing msg with
  | zero => rfl
  | succ i ih =>
    cases msg with
    | nil => simp [payloadByte]
    | cons cp msg =>
      rw [payloadByte, List.flatMap_cons, Nat.mul_add_one, Nat.add_comm, drop_bitsN_append]
      exact ih msg

/-- The two fields of the header (R166). -/
theorem bitsValue_header {c : Config} {m : Mode} {n : Nat} (hn : n < 2 ^ CNTBITS m) (rest : List Bool) :
    bitsValue ((headerBits c m n ++ rest).take MODEBITS) = (c.modeInd.get m).toNat ∧
      bitsValue (((headerBits c m n ++ rest).drop MODEBITS).take (CNTBITS m)) = n := by
  have hbehind := drop_bitsN_append MODEBITS (c.modeInd.get m).toNat 0 (bitsN (CNTBITS m) n ++ rest)
  rw [headerBits, List.append_assoc, take_bitsN_append]
  refine ⟨bitsValue_bitsN (c.modeInd.get m).isLt, (congrArg _ (congrArg _ hbehind)).trans ?_⟩
  rw [List.drop_zero, take_bitsN_append, bitsValue_bitsN hn]

/-- What stands behind the header (R169). -/
theorem drop_header (c : Config) (m : Mode) (n k : Nat) (rest : List Bool) :
    (headerBits c m n ++ rest).drop (MODEBITS + CNTBITS m + k) = rest.drop k := by
  rw [← headerBits_length c m n, List.drop_length_add_append]

/-- The list from an index on begins with the entry at the index. -/
theorem drop_eq_cons_of_getElem? {α : Type} {l : List α} {i : Nat} {a : α} (h : l[i]? = some a) :
    l.drop i = a :: l.drop (i + 1) := by
  obtain ⟨hi, rfl⟩ := List.getElem?_eq_some_iff.mp h
  exact List.drop_eq_getElem_cons hi

section Payload

variable {c : Config} (h : c.wf = true)

include h

/-- The 11 bits of pair p are worth 45 times its first value plus its second (R167). -/
theorem bitsValue_pair {msg : List CodePoint} {bs : List Bool} (hbs : payloadAlnum c msg = some bs) {p x y : Nat}
    {a b : CodePoint} (ha : msg[2 * p]? = some a) (hb : msg[2 * p + 1]? = some b) (hx : (a, x) ∈ c.alnum)
    (hy : (b, y) ∈ c.alnum) : bitsValue ((bs.drop (PAIRBITS * p)).take PAIRBITS) = 45 * x + y := by
  obtain ⟨hxa, hxle⟩ := alnumValue_of_mem h hx
  obtain ⟨hyb, hyle⟩ := alnumValue_of_mem h hy
  have hpair := payloadAlnum_drop p hbs
  rw [drop_eq_cons_of_getElem? ha, drop_eq_cons_of_getElem? hb, payloadAlnum_pair] at hpair
  obtain ⟨x', y', tail, hxa', hyb', -, htail⟩ := hpair
  obtain rfl := Option.some.inj (hxa.symm.trans hxa')
  obtain rfl := Option.some.inj (hyb.symm.trans hyb')
  have hfit : 45 * x + y < 2 ^ PAIRBITS := by simp only [PAIRBITS]; omega
  rw [← htail, take_bitsN_append, bitsValue_bitsN hfit]

/-- The last 6 bits of an odd message are worth the value of its last character (R167). -/
theorem bitsValue_odd {msg : List CodePoint} {bs : List Bool} (hbs : payloadAlnum c msg = some bs) {a : CodePoint}
    {x : Nat} (hodd : msg.length % 2 = 1) (ha : msg[msg.length - 1]? = some a) (hx : (a, x) ∈ c.alnum) :
    bitsValue (bs.drop (PAIRBITS * (msg.length / 2))) = x := by
  obtain ⟨hxa, hxle⟩ := alnumValue_of_mem h hx
  have hlast : 2 * (msg.length / 2) = msg.length - 1 := by omega
  have hpast : msg.length ≤ msg.length - 1 + 1 := by omega
  have hone := payloadAlnum_drop (msg.length / 2) hbs
  rw [hlast, drop_eq_cons_of_getElem? ha, List.drop_eq_nil_of_le hpast, payloadAlnum, hxa] at hone
  have hfit : x < 2 ^ ODDBITS := by simp only [ODDBITS]; omega
  rw [← Option.some.inj hone, bitsValue_bitsN hfit]

end Payload

/-- The 8 bits of character i are worth its code point (R168). -/
theorem bitsValue_character {msg : List CodePoint} (h : checkBytes msg = true) {i : Nat} {cp : CodePoint}
    (hcp : msg[i]? = some cp) : bitsValue (((payloadByte msg).drop (BYTEBITS * i)).take BYTEBITS) = cp.toNat := by
  have hfit : cp.toNat < 2 ^ BYTEBITS := Nat.lt_succ_of_le (checkBytes_iff.mp h cp (List.mem_of_getElem? hcp))
  rw [payloadByte_drop, drop_eq_cons_of_getElem? hcp, payloadByte, List.flatMap_cons, take_bitsN_append,
    bitsValue_bitsN hfit]

/-- Settles O43: the stream is the header, read back as its two fields, and behind it the payload, read back pair by
pair or byte by byte. -/
theorem assembledStreamCarriesMessage : Obligations.AssembledStreamCarriesMessage := by
  intro c msg hwf hlen hbytes
  have hmax : msg.length ≤ 255 := hlen.trans (msgMax_le_of_wf hwf)
  cases hmode : detectMode c msg with
  | alphanumeric =>
    obtain ⟨tail, htail⟩ := payloadAlnum_exists fun cp hcp =>
      alnumValue_isSome_iff.mpr (detectMode_eq_alphanumeric_iff.mp hmode cp hcp)
    have hbs : assemble c .alphanumeric msg = some (headerBits c .alphanumeric msg.length ++ tail) := by
      rw [assemble, htail, Option.map_some]
    have hfit : msg.length < 2 ^ CNTBITS .alphanumeric := by simp only [CNTBITS]; omega
    have hbehind := fun k => drop_header c .alphanumeric msg.length k tail
    obtain ⟨hind, hcount⟩ := bitsValue_header (c := c) hfit tail
    refine ⟨_, hbs, assemble_length hbs, hind, hcount, nofun, fun _ => ⟨fun p a b x y ha hb hx hy => ?_,
      fun hodd a x ha hx => ?_⟩⟩
    · exact (congrArg _ (congrArg _ (hbehind _))).trans (bitsValue_pair hwf htail ha hb hx hy)
    · exact (congrArg _ (hbehind _)).trans (bitsValue_odd hwf htail hodd ha hx)
  | byte =>
    have hbs : assemble c .byte msg = some (headerBits c .byte msg.length ++ payloadByte msg) := rfl
    have hfit : msg.length < 2 ^ CNTBITS .byte := by simp only [CNTBITS]; omega
    have hbehind := fun k => drop_header c .byte msg.length k (payloadByte msg)
    obtain ⟨hind, hcount⟩ := bitsValue_header (c := c) hfit (payloadByte msg)
    refine ⟨_, hbs, assemble_length hbs, hind, hcount, fun _ i cp hcp => ?_, nofun⟩
    exact (congrArg _ (congrArg _ (hbehind _))).trans (bitsValue_character (hbytes hmode) hcp)

/-! ## The commands (R174 to R177) -/

section Commands

variable {s : State} (he : s.err = 0)

include he

theorem exec_bsmode (hl : s.flag .lvlv = true) (hm : s.flag .modev = false) (hr : s.flag .raw = false)
    (hmsg : s.msg.length = s.msglen.toNat) :
    exec .bsmode s = check (detectMode s.cfg s.msg = .alphanumeric ∨ checkBytes s.msg = true)
      .unsupportedCharacterError (encode .bsmode) s
      (.next (({ s with mode := some (detectMode s.cfg s.msg) }.setFlag .modev).setRes
        (detectMode s.cfg s.msg).code)) := by
  rw [exec, execBsmode, command_inOrder he _ (by simp [hl, hm, hr]), reading_of_eq_some (entries_of_length hmsg),
    Bool.decide_or, Bool.decide_eq_true, beq_eq_decide]

theorem exec_bschk (hm : s.flag .modev = true) (hc : s.flag .chkv = false) {m : Mode} {l : Level}
    (hmode : s.mode = some m) (hlevel : s.level = some l) :
    exec .bschk s = check (requiredBits m s.msglen.toNat ≤ capBits s.cfg l) .capacityExceededError (encode .bschk) s
      (.next (({ s with reqbits := some (BitVec.ofNat 16 (requiredBits m s.msglen.toNat)) }.setFlag .chkv).setRes
        (BitVec.ofNat 16 (requiredBits m s.msglen.toNat)))) := by
  rw [exec, execBschk, command_inOrder he _ (by simp [hm, hc]), reading_of_eq_some hmode, reading_of_eq_some hlevel]

theorem exec_bsasm (hc : s.flag .chkv = true) (ha : s.flag .asmv = false) {m : Mode} {req : BitVec 16}
    (hmode : s.mode = some m) (hreq : s.reqbits = some req) (hmsg : s.msg.length = s.msglen.toNat) :
    exec .bsasm s = reading (assemble s.cfg m s.msg) .notAlphanumeric fun bs =>
      .next ({ s with bits := bs, bitlen := some (req.setWidth 8) }.setFlag .asmv) := by
  rw [exec, execBsasm, command_inOrder he _ (by simp [hc, ha]), reading_of_eq_some hmode, reading_of_eq_some hreq,
    reading_of_eq_some (entries_of_length hmsg)]

theorem exec_bspad (ha : s.flag .asmv = true) (hp : s.flag .padv = false) {l : Level} {n : BitVec 8}
    (hlevel : s.level = some l) (hlen : s.bitlen = some n) (hbits : s.bits.length = n.toNat) :
    exec .bspad s = .next (({ s with
      bits := padStream (capBits s.cfg l) s.bits, bitlen := some (BitVec.ofNat 8 (capBits s.cfg l)),
      dcw := packBytes (s.cfg.cap.get l) (padStream (capBits s.cfg l) s.bits),
      dlen := BitVec.ofNat 5 (s.cfg.cap.get l) }.setFlag .dcwv).setFlag .padv) := by
  rw [exec, execBspad, command_inOrder he _ (by simp [ha, hp]), reading_of_eq_some hlevel, reading_of_eq_some hlen,
    reading_of_eq_some (entries_of_length hbits)]

end Commands

/-- Settles O40: the flags, then the mode that the characters choose, which in Byte needs code points up to 255. -/
theorem bsmodeChoosesMode : Obligations.BsmodeChoosesMode := by
  refine ⟨rfl, fun s he => ⟨fun h => ?_, fun hl hm hr hmsg => ⟨fun hall => ?_, fun hsome hle => ?_,
    fun hsome hgt => ?_⟩⟩⟩
  · exact exec_outOfOrder he nofun (by rcases h with h | h | h <;> simp [inOrder, needsOne, needsZero, h])
  · have hmode := detectMode_eq_alphanumeric_iff.mpr hall
    rw [exec_bsmode he hl hm hr hmsg, check_of (.inl hmode), hmode]
    rfl
  · have hmode := detectMode_eq_byte_iff.mpr hsome
    rw [exec_bsmode he hl hm hr hmsg, check_of (.inr (checkBytes_iff.mpr hle)), hmode]
    rfl
  · have hmode := detectMode_eq_byte_iff.mpr hsome
    obtain ⟨cp, hcp, hlt⟩ := hgt
    have hbytes : ¬ checkBytes s.msg = true := fun h => absurd hlt (Nat.not_lt.mpr (checkBytes_iff.mp h cp hcp))
    exact (exec_bsmode he hl hm hr hmsg).trans (check_of_not (by simp [hmode, hbytes]))

/-- The required bits by mode, as R164 writes them. -/
theorem requiredBits_eq (m : Mode) (n : Nat) :
    requiredBits m n = if m = .alphanumeric then 4 + 9 + 11 * (n / 2) + 6 * (n % 2) else 4 + 8 + 8 * n := by
  cases m <;> rfl

/-- The required bits of any message fit in REQBITS (R26, R164). -/
theorem requiredBits_lt (m : Mode) (n : BitVec 8) : requiredBits m n.toNat < 2 ^ 16 := by
  have hn := n.isLt
  rw [requiredBits_eq]
  split <;> omega

/-- Settles O41: the flags, then the required bits against the capacity of the level. -/
theorem bschkValidatesCapacity : Obligations.BschkValidatesCapacity := by
  refine ⟨rfl, fun s he => ⟨fun h => ?_, fun m l need hm hc hmode hlevel hneed => ?_⟩⟩
  · exact exec_outOfOrder he nofun (by rcases h with h | h <;> simp [inOrder, needsOne, needsZero, h])
  obtain rfl : requiredBits m s.msglen.toNat = need := (requiredBits_eq m _).trans hneed.symm
  refine ⟨fun hover => ?_, fun hfit => ?_⟩
  · exact (exec_bschk he hm hc hmode hlevel).trans (check_of_not (Nat.not_le.mpr hover))
  · have hres : (BitVec.ofNat 16 (requiredBits m s.msglen.toNat)).setWidth 32 =
        BitVec.ofNat 32 (requiredBits m s.msglen.toNat) := by
      rw [← BitVec.ofNat_toNat, toNat_ofNat_of_lt (requiredBits_lt m s.msglen)]
    rw [exec_bschk he hm hc hmode hlevel, check_of (show _ ≤ capBits s.cfg l from hfit), ← hres]
    rfl

/-- Settles O42: the flags, then the assembled stream, whose length BSCHK computed. -/
theorem bsasmAssembles : Obligations.BsasmAssembles := by
  refine ⟨rfl, fun s he => ⟨fun h => ?_, fun m req bs hc ha hmode hreq hmsg hbs => ?_⟩⟩
  · exact exec_outOfOrder he nofun (by rcases h with h | h <;> simp [inOrder, needsOne, needsZero, h])
  · exact (exec_bsasm he hc ha hmode hreq hmsg).trans (reading_of_eq_some hbs)

/-- Settles O44: the flags, then the padded stream and its codewords; two flags go up at once. -/
theorem bspadFillsCapacity : Obligations.BspadFillsCapacity := by
  refine ⟨rfl, fun s he => ⟨fun h => ?_, fun l n ha hp hlevel hlen hbits => ?_⟩⟩
  · exact exec_outOfOrder he nofun (by rcases h with h | h <;> simp [inOrder, needsOne, needsZero, h])
  · have hflags : statusWith (statusWith s.status .dcwv) .padv = s.status ||| 0x1010 := BitVec.or_assoc _ _ _
    rw [exec_bspad he ha hp hlevel hlen hbits, ← hflags]
    rfl

end Sys2Proof.Proofs

/-! # The motion of the writer

A step bears on one cell, the cursor's, and moves the cursor to the cell of the next number (R203 to R205). `OnWay` is
where a walk can stand and `walkNumber` the number of its steps; ZZRUN is so many steps as are left. Nothing here asks
how the walk came to stand where it does, nor what the grid holds. -/

namespace Sys2Proof.Proofs

open Sys2Proof.Machine Sys2Proof.Safety

/-! ## One step (R203, R204) -/

section Step

variable {bits : List Bool} {x : Walk}

/-- An Unset data cell takes the next bit, or becomes Light past the end of the bit string (R203, R206). -/
theorem zzVisit_of_unset (hf : isFunction x.cur.zr.toNat x.cur.column = false)
    (hu : x.g.read x.cur.zr.toNat x.cur.column = .unset) :
    zzVisit bits x = { x with
      g := x.g.write x.cur.zr.toNat x.cur.column (colourOf (bits[x.cur.zn.toNat]?.getD false))
      cur := { x.cur with zn := if x.cur.zn.toNat < bits.length then x.cur.zn + 1 else x.cur.zn } } := by
  cases hb : bits[x.cur.zn.toNat]? with
  | some b => rw [zzVisit_takes hf hu hb, if_pos (List.getElem?_eq_some_iff.mp hb).1, Option.getD_some]
  | none =>
    rw [zzVisit_remainder hf hu hb, if_neg (Nat.not_lt.mpr (List.getElem?_eq_none_iff.mp hb))]
    rfl

/-- The advance consumes no bit (R204). -/
@[simp] theorem zzAdvance_zn (x : Walk) : (zzAdvance x).cur.zn = x.cur.zn := by
  unfold zzAdvance
  dsimp only
  split_ifs <;> rfl

/-- A step that visits an Unset data cell colours it (R203). -/
theorem read_zzStep_of_unset (hp : x.cur.onPath = true) (hf : isFunction x.cur.zr.toNat x.cur.column = false)
    (hu : x.g.read x.cur.zr.toNat x.cur.column = .unset) :
    (zzStep bits x).g.read x.cur.zr.toNat x.cur.column = colourOf (bits[x.cur.zn.toNat]?.getD false) := by
  obtain ⟨hcol, -⟩ := column_bounds hp
  rw [zzStep, zzAdvance_g, zzVisit_of_unset hf hu,
    Grid.read_write_of_ne (bounds_of_onPath hp).1 hcol hcol (colourOf_ne_unset _), if_pos ⟨rfl, rfl⟩]

/-- A step leaves the function cells, the cells already set and every cell but the cursor's (R203). -/
theorem read_zzStep_of_kept (hp : x.cur.onPath = true) {r c : Nat} (hc : c ≤ 20)
    (h : isFunction r c = true ∨ x.g.read r c ≠ .unset ∨ ¬ (r = x.cur.zr.toNat ∧ c = x.cur.column)) :
    (zzStep bits x).g.read r c = x.g.read r c := by
  rw [zzStep, zzAdvance_g]
  by_cases hat : r = x.cur.zr.toNat ∧ c = x.cur.column
  · obtain ⟨rfl, rfl⟩ := hat
    rw [zzVisit_skips (h.imp_right fun h => h.resolve_right fun hne => hne ⟨rfl, rfl⟩)]
  · obtain ⟨he, -⟩ | ⟨-, m, hm, he⟩ := zzVisit_next (bits := bits) (x := x)
    · rw [he]
    · rw [he, Grid.read_write_of_ne (bounds_of_onPath hp).1 (column_bounds hp).1 hc hm, if_neg hat]

/-- The data cell of the cursor's number is the cursor's cell (R205). -/
theorem visitStep_eq_stepsTaken_iff {k : Cursor} (hp : k.onPath = true) {r c : Nat} (hr : r ≤ 20) (hc : c ≤ 20)
    (hf : isFunction r c = false) : visitStep r c = stepsTaken k ↔ r = k.zr.toNat ∧ c = k.column := by
  have h6 : c ≠ 6 := fun e => by simp [e, isFunction_column_six] at hf
  obtain ⟨hcol, hcol6⟩ := column_bounds hp
  exact ⟨visitStep_injective hr hc h6 (bounds_of_onPath hp).1 hcol hcol6, fun ⟨hr, hc⟩ => by rw [hr, hc, stepsTaken]⟩

end Step

/-! ## Where a walk stands (R202, R205) -/

/-- The walk runs with its cursor on the path, or it is done with the cursor where R205 says. -/
def OnWay (x : Walk) : Prop :=
  (x.zst = .run ∧ Upright x.cur) ∨
    (x.zst = .done ∧ ∃ zn, x.cur = { zc := 1, zr := 20, zk := false, zup := true, zn := zn })

/-- The number of steps that a walk has taken: all 420 once it is done (R205). -/
def walkNumber (x : Walk) : Nat := if x.zst = .done then 420 else stepsTaken x.cur

section OnWay

variable {bits : List Bool} {x : Walk}

theorem OnWay.running (h : OnWay x) (hz : x.zst ≠ .done) : x.zst = .run ∧ Upright x.cur :=
  h.resolve_right fun hd => hz hd.1

theorem walkNumber_of_not_done (hz : x.zst ≠ .done) : walkNumber x = stepsTaken x.cur := if_neg hz

theorem stepsTaken_lt (h : Upright x.cur) : stepsTaken x.cur < 420 := visitStep_lt (bounds_of_onPath h.1).1

/-- A walk is done exactly when it has taken its 420 steps (R205). -/
theorem OnWay.done_iff (h : OnWay x) : x.zst = .done ↔ walkNumber x = 420 := by
  constructor
  · exact fun hz => if_pos hz
  · intro hn
    by_contra hz
    have := stepsTaken_lt (h.running hz).2
    rw [walkNumber_of_not_done hz] at hn
    omega

theorem OnWay.walkNumber_le (h : OnWay x) : walkNumber x ≤ 420 := by
  by_cases hz : x.zst = .done
  · exact (h.done_iff.mp hz).le
  · exact (walkNumber_of_not_done hz).trans_le (stepsTaken_lt (h.running hz).2).le

/-- A step of a running walk is one of its 420 (R204, R205). -/
theorem OnWay.zzStep (h : OnWay x) (hz : x.zst ≠ .done) :
    OnWay (zzStep bits x) ∧ walkNumber (zzStep bits x) = walkNumber x + 1 := by
  obtain ⟨hrun, hup⟩ := h.running hz
  obtain ⟨hzst, hcur⟩ := zzVisit_place bits x
  have hsteps : stepsTaken (zzVisit bits x).cur = stepsTaken x.cur := by rw [hcur, stepsTaken_zn]
  rw [walkNumber_of_not_done hz, ← hsteps, Machine.zzStep]
  obtain ⟨hz', hup', -, hs⟩ | ⟨hz', hs, hend⟩ := zzAdvance_next (x := zzVisit bits x) (by rw [hcur]; exact hup)
  · have hrun' : (zzAdvance (zzVisit bits x)).zst = .run := by rw [hz', hzst, hrun]
    exact ⟨.inl ⟨hrun', hup'⟩, by rw [walkNumber_of_not_done (by simp [hrun']), hs]⟩
  · exact ⟨.inr ⟨hz', _, hend⟩, by rw [walkNumber, if_pos hz', hs]⟩

end OnWay

/-! ## Many steps (R205, R211) -/

section Run

variable {bits : List Bool} {x : Walk}

theorem zzRun_succ_of_not_done (hz : x.zst ≠ .done) (fuel : Nat) :
    zzRun bits (fuel + 1) x = zzRun bits fuel (zzStep bits x) := if_neg hz

/-- A walk that is done takes no more steps. -/
theorem zzRun_of_done (hz : x.zst = .done) (fuel : Nat) : zzRun bits fuel x = x := by
  cases fuel with
  | zero => rfl
  | succ fuel => exact if_pos hz

theorem zzRun_add (m n : Nat) (x : Walk) : zzRun bits (m + n) x = zzRun bits n (zzRun bits m x) := by
  induction m generalizing x with
  | zero => rw [Nat.zero_add, zzRun]
  | succ m ih =>
    by_cases hz : x.zst = .done
    · rw [zzRun_of_done hz, zzRun_of_done hz, zzRun_of_done hz]
    · rw [Nat.add_right_comm, zzRun_succ_of_not_done hz, zzRun_succ_of_not_done hz, ih]

/-- What every step of a walk that is not done keeps, a run keeps. -/
theorem zzRun_induction {P : Walk → Prop} (hstep : ∀ y, y.zst ≠ .done → P y → P (zzStep bits y)) (fuel : Nat)
    (h : P x) : P (zzRun bits fuel x) := by
  induction fuel generalizing x with
  | zero => exact h
  | succ fuel ih =>
    by_cases hz : x.zst = .done
    · rwa [zzRun_of_done hz]
    · rw [zzRun_succ_of_not_done hz]
      exact ih (hstep x hz h)

theorem OnWay.zzRun (h : OnWay x) (fuel : Nat) : OnWay (zzRun bits fuel x) :=
  zzRun_induction (fun _ hz hy => (hy.zzStep hz).1) fuel h

/-- The induction along a walk that is on its way. -/
theorem OnWay.zzRun_induction (h : OnWay x) {P : Walk → Prop}
    (hstep : ∀ y, OnWay y → y.zst ≠ .done → P y → P (Machine.zzStep bits y)) (fuel : Nat) (hP : P x) :
    P (Machine.zzRun bits fuel x) :=
  (Proofs.zzRun_induction (P := fun y => OnWay y ∧ P y)
    (fun y hz ⟨hy, hPy⟩ => ⟨(hy.zzStep hz).1, hstep y hy hz hPy⟩) fuel ⟨h, hP⟩).2

/-- A run takes one step for each unit of fuel, until the walk is done (R211). -/
theorem OnWay.walkNumber_zzRun (h : OnWay x) (fuel : Nat) :
    walkNumber (Machine.zzRun bits fuel x) = min 420 (walkNumber x + fuel) := by
  induction fuel generalizing x with
  | zero => exact (min_eq_right h.walkNumber_le).symm
  | succ fuel ih =>
    by_cases hz : x.zst = .done
    · rw [zzRun_of_done hz, h.done_iff.mp hz]
      omega
    · obtain ⟨hon, hnum⟩ := h.zzStep (bits := bits) hz
      rw [zzRun_succ_of_not_done hz, ih hon, hnum]
      congr 1
      omega

/-- With fuel for the steps that are left the walk ends (R205, R309). -/
theorem OnWay.zzRun_done (h : OnWay x) {fuel : Nat} (hfuel : 420 ≤ walkNumber x + fuel) :
    (Machine.zzRun bits fuel x).zst = .done :=
  (h.zzRun fuel).done_iff.mpr ((h.walkNumber_zzRun fuel).trans (min_eq_left hfuel))

/-- As long as a walk has so many steps left, a run is the step iterated. -/
theorem OnWay.iterate_zzStep (h : OnWay x) {n : Nat} (hn : walkNumber x + n ≤ 420) :
    (Machine.zzStep bits)^[n] x = Machine.zzRun bits n x := by
  induction n generalizing x with
  | zero => rfl
  | succ n ih =>
    have hz : x.zst ≠ .done := fun hz => by rw [h.done_iff.mp hz] at hn; omega
    obtain ⟨hon, hnum⟩ := h.zzStep (bits := bits) hz
    rw [Function.iterate_succ_apply, zzRun_succ_of_not_done hz, ih hon (by omega)]

/-- A run after a step ends as the run without it (R210, R211). -/
theorem OnWay.zzRun_zzStep (h : OnWay x) (hz : x.zst ≠ .done) :
    Machine.zzRun bits WALKSTEPS (Machine.zzStep bits x) = Machine.zzRun bits WALKSTEPS x := by
  obtain ⟨hon, hnum⟩ := h.zzStep (bits := bits) hz
  have hend : (Machine.zzRun bits 419 (Machine.zzStep bits x)).zst = .done := hon.zzRun_done (by omega)
  calc Machine.zzRun bits (419 + 1) (Machine.zzStep bits x)
      = Machine.zzRun bits 1 (Machine.zzRun bits 419 (Machine.zzStep bits x)) := zzRun_add 419 1 _
    _ = Machine.zzRun bits 419 (Machine.zzStep bits x) := zzRun_of_done hend 1
    _ = Machine.zzRun bits WALKSTEPS x := (zzRun_succ_of_not_done hz 419).symm

/-! ## What a run leaves and what it sets (R203, R211) -/

/-- A run leaves the function cells, the cells already set and the cells of the steps already taken. -/
theorem OnWay.read_zzRun_of_kept (h : OnWay x) (fuel : Nat) {r c : Nat} (hr : r ≤ 20) (hc : c ≤ 20)
    (hkept : isFunction r c = true ∨ x.g.read r c ≠ .unset ∨ visitStep r c < walkNumber x) :
    (Machine.zzRun bits fuel x).g.read r c = x.g.read r c := by
  refine (h.zzRun_induction (P := fun y => walkNumber x ≤ walkNumber y ∧ y.g.read r c = x.g.read r c)
    (fun y hy hz ⟨hnum, hread⟩ => ?_) fuel ⟨le_rfl, rfl⟩).2
  have hnext := (hy.zzStep (bits := bits) hz).2
  refine ⟨by omega, (read_zzStep_of_kept (hy.running hz).2.1 hc ?_).trans hread⟩
  rw [hread]
  refine hkept.imp_right (Or.imp_right ?_)
  rintro hlt ⟨rfl, rfl⟩
  rw [walkNumber_of_not_done hz, stepsTaken] at hnum
  omega

/-- A run sets every data cell of its steps. -/
theorem OnWay.read_zzRun_ne_unset (h : OnWay x) (fuel : Nat) {r c : Nat} (hr : r ≤ 20) (hc : c ≤ 20)
    (hf : isFunction r c = false) (hahead : walkNumber x ≤ visitStep r c)
    (hpast : visitStep r c < walkNumber (Machine.zzRun bits fuel x)) :
    (Machine.zzRun bits fuel x).g.read r c ≠ .unset := by
  refine h.zzRun_induction (P := fun y => visitStep r c < walkNumber y → y.g.read r c ≠ .unset)
    (fun y hy hz hset hlt => ?_) fuel (fun hlt => by omega) hpast
  have hp := (hy.running hz).2.1
  rw [(hy.zzStep hz).2, walkNumber_of_not_done hz] at hlt
  rw [walkNumber_of_not_done hz] at hset
  by_cases hu : y.g.read r c = .unset
  · have hat : visitStep r c = stepsTaken y.cur := by
      by_contra hne
      exact hset (by omega) hu
    obtain ⟨rfl, rfl⟩ := (visitStep_eq_stepsTaken_iff hp hr hc hf).mp hat
    rw [read_zzStep_of_unset hp hf hu]
    exact colourOf_ne_unset _
  · rwa [read_zzStep_of_kept hp hc (.inr (.inl hu))]

end Run

end Sys2Proof.Proofs

/-! # The placement of the bits

The printed map of R207 numbers the data cells in the order of the walk (`placementIndex_eq`). So bit n of the combined
bit string goes to the cell of index n, if the data cells ahead of the cursor are Unset and the bits consumed are as
many as the data cells behind it: `Placing`, which every step keeps. -/

namespace Sys2Proof.Proofs

open Sys2Proof.Machine Sys2Proof.Safety

/-! ## The printed map (R207) -/

/-- The cell of step n of the walk (R201, R205). -/
def pathCell (n : Nat) : Nat × Nat :=
  (if n / 42 % 2 = 0 then 20 - n % 42 / 2 else n % 42 / 2, (stripColumns.getD (n / 42) 0).toNat - n % 2)

theorem visitStep_pathCell : ∀ n < 420, (pathCell n).1 ≤ 20 ∧ (pathCell n).2 ≤ 20 ∧ (pathCell n).2 ≠ 6 ∧
    visitStep (pathCell n).1 (pathCell n).2 = n := by decide +kernel

theorem pathCell_visitStep {r c : Nat} (hr : r ≤ 20) (hc : c ≤ 20) (h6 : c ≠ 6) : pathCell (visitStep r c) = (r, c) := by
  obtain ⟨hr', hc', h6', hv⟩ := visitStep_pathCell _ (visitStep_lt (c := c) hr)
  obtain ⟨h1, h2⟩ := visitStep_injective hr' hc' h6' hr hc h6 hv
  exact Prod.ext h1 h2

/-- Reading the printed map along the walk, n cells far: the number of data cells met, if each had the number of data
cells before it as its index and no function cell had an index. -/
def mapRead : Nat → Option Nat
  | 0 => some 0
  | n + 1 => (mapRead n).bind fun i =>
    let f := isFunction (pathCell n).1 (pathCell n).2
    if placementIndex (pathCell n).1 (pathCell n).2 = (if f then none else some i) then some (i + (!f).toNat) else none

theorem mapRead_walk : mapRead 420 = some 208 := by decide +kernel

/-- The numbers of a map that is read without complaint are those of the walk. -/
theorem mapRead_eq {n i : Nat} (h : mapRead n = some i) (hn : n ≤ 420) :
    i = dataVisited n ∧ ∀ m < n, placementIndex (pathCell m).1 (pathCell m).2 =
      if isFunction (pathCell m).1 (pathCell m).2 then none else some (dataVisited m) := by
  induction n generalizing i with
  | zero => exact ⟨by simpa [mapRead, dataVisited_zero] using h.symm, nofun⟩
  | succ n ih =>
    obtain ⟨j, hj, h⟩ := Option.bind_eq_some_iff.mp h
    obtain ⟨rfl, hbelow⟩ := ih hj (by omega)
    obtain ⟨hidx, hi⟩ := (Option.ite_none_right_eq_some ..).mp h
    obtain ⟨hr, hc, h6, hv⟩ := visitStep_pathCell n hn
    have hcount := dataVisited_succ hr hc h6
    rw [hv] at hcount
    refine ⟨(hcount.trans (Option.some.inj hi)).symm, fun m hm => ?_⟩
    obtain hm | rfl := Nat.lt_succ_iff_lt_or_eq.mp hm
    · exact hbelow m hm
    · exact hidx

/-- The map of R207 gives a data cell the number of data cells that the walk visits before it. -/
theorem placementIndex_eq {r c : Nat} (hr : r ≤ 20) (hc : c ≤ 20) :
    placementIndex r c = if isFunction r c then none else some (dataVisited (visitStep r c)) := by
  by_cases h6 : c = 6
  · have column : ∀ r ≤ 20, placementIndex r 6 = none := by decide
    rw [h6, column r hr, isFunction_column_six, if_pos rfl]
  · have hcell := (mapRead_eq mapRead_walk le_rfl).2 _ (visitStep_lt (c := c) hr)
    rwa [pathCell_visitStep hr hc h6] at hcell

theorem placementIndex_eq_some_iff {r c n : Nat} (hr : r ≤ 20) (hc : c ≤ 20) :
    placementIndex r c = some n ↔ isFunction r c = false ∧ dataVisited (visitStep r c) = n := by
  rw [placementIndex_eq hr hc]
  cases isFunction r c <;> simp

theorem placementIndex_eq_none_iff {r c : Nat} (hr : r ≤ 20) (hc : c ≤ 20) :
    placementIndex r c = none ↔ isFunction r c = true := by
  rw [placementIndex_eq hr hc]
  cases isFunction r c <;> simp

/-! ## The combined bit string (R63, R199) -/

/-- Bit n of the combined bit string, 0 past its end. -/
theorem getD_codewordBits (cw : List Byte) (n : Nat) : (codewordBits cw)[n]?.getD false = combinedBit cw n := by
  induction cw generalizing n with
  | nil => rfl
  | cons b cw ih =>
    have hcons : codewordBits (b :: cw) = bitsN 8 b.toNat ++ codewordBits cw := rfl
    rw [hcons]
    by_cases hn : n < 8
    · have hdiv : n / 8 = 0 := by omega
      have hmod : n % 8 = n := by omega
      rw [List.getElem?_append_left (by simpa using hn), bitsN_getElem? _ _ _ hn, combinedBit, hdiv, hmod]
      rfl
    · have hdiv : n / 8 = (n - 8) / 8 + 1 := by omega
      have hmod : n % 8 = (n - 8) % 8 := by omega
      rw [List.getElem?_append_right (by simpa using hn), bitsN_length, ih, combinedBit, combinedBit, hdiv, hmod,
        List.getElem?_cons_succ]

theorem combinedBit_of_le {cw : List Byte} {n : Nat} (h : 8 * cw.length ≤ n) : combinedBit cw n = false := by
  rw [combinedBit, List.getElem?_eq_none (by omega)]

/-! ## The walk's invariant (R203, R206) -/

/-- The walk places `bits`: ZN counts the data cells behind the cursor, as far as there are bits, those cells hold
their bits and the data cells ahead are Unset. -/
structure Placing (bits : List Bool) (x : Walk) : Prop where
  onWay : OnWay x
  consumed : x.cur.zn.toNat = min bits.length (dataVisited (walkNumber x))
  ahead : ∀ r c, r ≤ 20 → c ≤ 20 → isFunction r c = false → walkNumber x ≤ visitStep r c → x.g.read r c = .unset
  behind : ∀ r c, r ≤ 20 → c ≤ 20 → isFunction r c = false → visitStep r c < walkNumber x →
    x.g.read r c = colourOf (bits[dataVisited (visitStep r c)]?.getD false)

section Placing

variable {bits : List Bool} {x : Walk}

/-- The next bit is that of the cursor's number, if there is one. -/
theorem Placing.next_bit (h : Placing bits x) :
    bits[x.cur.zn.toNat]?.getD false = bits[dataVisited (walkNumber x)]?.getD false := by
  rw [h.consumed]
  by_cases hn : dataVisited (walkNumber x) ≤ bits.length
  · rw [min_eq_right hn]
  · rw [List.getElem?_eq_none (by omega), List.getElem?_eq_none (by omega)]

/-- A step consumes a bit at a data cell, while there are bits. -/
theorem Placing.consumed_zzStep (h : Placing bits x) (hz : x.zst ≠ .done) (hlen : bits.length ≤ 208) :
    (zzStep bits x).cur.zn.toNat = min bits.length (dataVisited (walkNumber x + 1)) := by
  have hp := (h.onWay.running hz).2.1
  have hrow := (bounds_of_onPath hp).1
  obtain ⟨hcol, h6⟩ := column_bounds hp
  have hold := h.consumed
  have hahead := h.ahead _ _ hrow hcol
  have hcount : dataVisited (walkNumber x + 1) =
      dataVisited (walkNumber x) + (!isFunction x.cur.zr.toNat x.cur.column).toNat := by
    rw [walkNumber_of_not_done hz, stepsTaken]
    exact dataVisited_succ hrow hcol h6
  generalize dataVisited (walkNumber x + 1) = after at hcount ⊢
  generalize dataVisited (walkNumber x) = before at hcount hold
  rw [hcount, Machine.zzStep, zzAdvance_zn]
  cases hf : isFunction x.cur.zr.toNat x.cur.column with
  | true => rw [zzVisit_skips (.inl hf), hold, Bool.not_true, Bool.toNat_false, Nat.add_zero]
  | false =>
    rw [zzVisit_of_unset hf (hahead hf (walkNumber_of_not_done hz).le), Bool.not_false, Bool.toNat_true]
    dsimp only
    split <;> bv_omega

theorem Placing.zzStep (h : Placing bits x) (hz : x.zst ≠ .done) (hlen : bits.length ≤ 208) :
    Placing bits (zzStep bits x) := by
  obtain ⟨hon, hnum⟩ := h.onWay.zzStep (bits := bits) hz
  have hp := (h.onWay.running hz).2.1
  have hstand := walkNumber_of_not_done hz
  have hcell := fun {r c} hr hc hf => visitStep_eq_stepsTaken_iff hp (r := r) (c := c) hr hc hf
  refine ⟨hon, hnum ▸ h.consumed_zzStep hz hlen, fun r c hr hc hf hlt => ?_, fun r c hr hc hf hlt => ?_⟩
  · have hne : visitStep r c ≠ stepsTaken x.cur := by omega
    rw [read_zzStep_of_kept hp hc (.inr (.inr (mt (hcell hr hc hf).mpr hne)))]
    exact h.ahead r c hr hc hf (by omega)
  · by_cases hat : visitStep r c = stepsTaken x.cur
    · obtain ⟨rfl, rfl⟩ := (hcell hr hc hf).mp hat
      rw [read_zzStep_of_unset hp hf (h.ahead _ _ hr hc hf (by omega)), h.next_bit, hstand, hat]
    · rw [read_zzStep_of_kept hp hc (.inr (.inr (mt (hcell hr hc hf).mpr hat)))]
      exact h.behind r c hr hc hf (by omega)

theorem Placing.zzRun (h : Placing bits x) (hlen : bits.length ≤ 208) (fuel : Nat) : Placing bits (zzRun bits fuel x) :=
  zzRun_induction (fun _ hz hy => hy.zzStep hz hlen) fuel h

end Placing

end Sys2Proof.Proofs

/-! # The matrix unit

What FPLACE, ZZINIT, ZZSTEP and ZZRUN answer. In order, the two commands of the writer move it over the combined bit
string, so each of their statements is read off the walk. -/

namespace Sys2Proof.Proofs

open Host Sys2Proof.Machine Sys2Proof.Safety

/-! ## The commands in order (R208 to R211) -/

/-- The state after the writer has moved, field by field (R210, R211). -/
theorem withWalk_eq (s : State) (x : Walk) :
    s.withWalk x = { s with
      g := x.g, zst := x.zst, cursor := some x.cur
      status := if x.zst = .done then s.status ||| 0x0100 else s.status } := by
  unfold State.withWalk
  dsimp only
  split <;> rfl

/-- A walk that goes on leaves no trace in STATUS: the next motion may as well start from the state before it. -/
theorem withWalk_withWalk (s : State) {x : Walk} (hx : x.zst ≠ .done) (y : Walk) :
    (s.withWalk x).withWalk y = s.withWalk y := by
  simp only [withWalk_eq, if_neg hx]

/-- The combined bit string: data codewords before EC codewords, most significant bit first (R199). -/
def combinedBits (s : State) : List Bool := codewordBits (s.dcw ++ s.ecw)

/-- What the writer of a state works on when its cursor holds `k`. -/
def walkFrom (s : State) (k : Cursor) : Walk := ⟨s.g, s.zst, k⟩

/-- With codewords as the length registers say, the combined bit string holds TOTBITS bits (R199). -/
theorem combinedBits_length {s : State} (hd : s.dcw.length = s.dlen.toNat) (hc : s.ecw.length = s.elen.toNat) :
    (combinedBits s).length = totBits s := by
  rw [combinedBits, codewordBits_length, List.length_append, hd, hc, totBits]

theorem combinedBit_of_totBits_le {s : State} (hd : s.dcw.length = s.dlen.toNat) (hc : s.ecw.length = s.elen.toNat)
    {n : Nat} (hn : totBits s ≤ n) : combinedBit (s.dcw ++ s.ecw) n = false := by
  refine combinedBit_of_le ?_
  rwa [List.length_append, hd, hc]

/-- A writer on its path, with the codewords that its length registers name, moves over their bits (R199). -/
theorem moveWriter_eq {s : State} {k : Cursor} (hk : s.cursor = some k) (hp : k.onPath = true)
    (hd : s.dcw.length = s.dlen.toNat) (hc : s.ecw.length = s.elen.toNat) (move : List Bool → Walk → Walk) :
    moveWriter s move = .next (s.withWalk (move (combinedBits s) (walkFrom s k))) := by
  rw [moveWriter, reading_of_eq_some hk, hp, assured_true, reading_of_eq_some (entries_of_length hd),
    reading_of_eq_some (entries_of_length hc)]
  rfl

/-- The writer moves only from a cursor on its path (R201, R204; log 11). -/
theorem onPath_of_moveWriter {s t : State} {move : List Bool → Walk → Walk} (h : moveWriter s move = .next t)
    {k : Cursor} (hk : s.cursor = some k) : k.onPath = true := by
  obtain ⟨k', -, -, hk', hp, -⟩ := moveWriter_next h
  obtain rfl := Option.some.inj (hk.symm.trans hk')
  exact hp

section InOrder

variable {s : State} (he : s.err = 0)

include he

theorem exec_fplace (hf : s.flag .fpv = false) :
    exec .fplace s = .next ({ s with g := drawFunctionPatterns s.g }.setFlag .fpv) := by
  rw [exec, execFplace, command_inOrder he _ (by simp [hf])]

theorem exec_zzinit (hf : s.flag .fpv = true) (hc : s.flag .ecwv = true) (hz : s.zst = .idle) :
    exec .zzinit s = .next { s with zst := .run, cursor := some Cursor.start } := by
  rw [exec, execZzinit, command_inOrder he _ (by simp [hf, hc, hz])]

theorem exec_zzstep (hz : s.zst = .run) : exec .zzstep s = moveWriter s zzStep := by
  rw [exec, execZzstep, command_inOrder he _ (by simp [hz])]

theorem exec_zzrun (hz : s.zst = .run) : exec .zzrun s = moveWriter s fun bits => zzRun bits WALKSTEPS := by
  rw [exec, execZzrun, command_inOrder he _ (by simp [hz])]

end InOrder

/-! ## The patterns and the start of the writer (R197, R208, R209) -/

/-- Settles O46: the 441 cells are counted, and the picture is compared cell by cell. -/
theorem geometryCountsAndPicture : Obligations.GeometryCountsAndPicture :=
  ⟨by decide +kernel, by decide +kernel, by decide +kernel, by decide +kernel, by decide +kernel, by decide +kernel⟩

/-- Settles O47: the flag, then the grid that is tabulated from the patterns and the old cells. -/
theorem fplaceDrawsPatterns : Obligations.FplaceDrawsPatterns := by
  refine ⟨rfl, fun s he => ⟨fun hf => ?_, fun hf => ⟨_, exec_fplace he hf, rfl, drawFunctionPatterns_wf _, ?_⟩⟩⟩
  · exact exec_outOfOrder he nofun (by simp [inOrder, needsZero, hf])
  · intro r c hr hc
    have hread := read_drawFunctionPatterns s.g hr hc
    exact ⟨fun m hm => hread.trans (by rw [hm, Option.getD_some]), fun hn => hread.trans (by rw [hn, Option.getD_none])⟩

/-- Settles O48: the two flags and the writer's state, then the start of the cursor. -/
theorem zzinitArmsWriter : Obligations.ZzinitArmsWriter := by
  refine ⟨rfl, fun s he => ⟨fun h => ?_, fun hf hc hz => exec_zzinit he hf hc hz⟩⟩
  exact exec_outOfOrder he nofun (by rcases h with h | h | h <;> simp [inOrder, needsOne, needsState, h])

/-! ## One step and a whole run (R205, R210, R211) -/

section Moves

variable {bits : List Bool} {x : Walk}

/-- The advance looks at neither the grid nor ZN (R204). -/
theorem zzAdvance_place (x : Walk) (g : Grid) (zn : BitVec 8) :
    (zzAdvance { x with g := g, cur := { x.cur with zn := zn } }).cur = { (zzAdvance x).cur with zn := zn } ∧
      (zzAdvance { x with g := g, cur := { x.cur with zn := zn } }).zst = (zzAdvance x).zst := by
  unfold zzAdvance
  dsimp only
  split_ifs <;> exact ⟨rfl, rfl⟩

/-- A step moves the cursor as the advance alone does, but for ZN. -/
theorem zzStep_place (bits : List Bool) (x : Walk) :
    (zzStep bits x).cur = { (zzAdvance x).cur with zn := (zzStep bits x).cur.zn } ∧
      (zzStep bits x).zst = (zzAdvance x).zst := by
  obtain ⟨hzst, hcur⟩ := zzVisit_place bits x
  have hvisit : zzVisit bits x =
      { x with g := (zzVisit bits x).g, cur := { x.cur with zn := (zzVisit bits x).cur.zn } } := by
    rw [← hcur, ← hzst]
  have hplace := zzAdvance_place x (zzVisit bits x).g (zzVisit bits x).cur.zn
  rw [← hvisit, ← zzAdvance_zn, ← zzStep] at hplace
  exact hplace

/-- A step that visits an Unset data cell consumes a bit, if there is one (R203, R206). -/
theorem zn_zzStep_of_unset (hf : isFunction x.cur.zr.toNat x.cur.column = false)
    (hu : x.g.read x.cur.zr.toNat x.cur.column = .unset) :
    (zzStep bits x).cur.zn = if x.cur.zn.toNat < bits.length then x.cur.zn + 1 else x.cur.zn := by
  rw [zzStep, zzAdvance_zn, zzVisit_of_unset hf hu]

/-- A step that visits another cell consumes nothing (R203). -/
theorem zn_zzStep_of_kept (h : isFunction x.cur.zr.toNat x.cur.column = true ∨
    x.g.read x.cur.zr.toNat x.cur.column ≠ .unset) : (zzStep bits x).cur.zn = x.cur.zn := by
  rw [zzStep, zzAdvance_zn, zzVisit_skips h]

end Moves

/-- Settles O49: the visit of the cursor's cell, and the advance by its cases. -/
theorem zzstepMovesOnce : Obligations.ZzstepMovesOnce := by
  refine ⟨rfl, fun s he => ⟨fun hz => ?_, fun k hz hk hp hd hc _ => ?_⟩⟩
  · exact exec_outOfOrder he nofun (by simp [inOrder, needsState, hz])
  have hexec := (exec_zzstep he hz).trans (moveWriter_eq hk hp hd hc _)
  have hlen := combinedBits_length hd hc
  have hplace := zzStep_place (combinedBits s) (walkFrom s k)
  rw [withWalk_eq] at hexec
  refine ⟨_, _, hexec, rfl, rfl, fun r c _ hcol hne => ?_, fun hkept => ?_, fun hf hu => ?_, fun hzk => ?_,
    fun hzk hup hrow => ?_, fun hzk hdown hrow => ?_, fun hzk hend => ?_, rfl⟩
  · exact read_zzStep_of_kept hp hcol (.inr (.inr (not_and_or.mpr hne)))
  · exact ⟨read_zzStep_of_kept hp (column_bounds hp).1 (hkept.imp_right .inl), zn_zzStep_of_kept hkept⟩
  · have hread := read_zzStep_of_unset (bits := combinedBits s) (x := walkFrom s k) hp hf hu
    have hzn := zn_zzStep_of_unset (bits := combinedBits s) (x := walkFrom s k) hf hu
    rw [combinedBits, getD_codewordBits] at hread
    rw [hlen] at hzn
    refine ⟨fun hlt => ⟨hread, hzn.trans (if_pos hlt)⟩, fun hle => ⟨hread.trans ?_, hzn.trans (if_neg hle.not_gt)⟩⟩
    exact congrArg colourOf (combinedBit_of_totBits_le hd hc hle)
  · rw [zzAdvance_left hzk] at hplace
    exact hz ▸ hplace
  · rw [zzAdvance_up hzk hup hrow] at hplace
    exact hz ▸ hplace
  · rw [zzAdvance_down hzk hdown hrow] at hplace
    exact hz ▸ hplace
  · have hb : k.atBoundary := ⟨hzk, hend.imp (And.imp_right fun h => by rw [h]; rfl)
      (And.imp_right fun h => by rw [h]; decide)⟩
    refine ⟨fun h1 => ?_, fun h8 => ?_, fun h1 h8 => ?_⟩
    · rw [zzAdvance_done hb h1] at hplace
      exact hplace
    · have h1 : k.zc ≠ 1 := by rw [h8]; decide
      have hover : (walkFrom s k).cur.zc - 2 = 6 := by rw [walkFrom, h8]; rfl
      rw [zzAdvance_strip hb h1, if_pos hover] at hplace
      exact hz ▸ hplace
    · have hbeside : (walkFrom s k).cur.zc - 2 ≠ 6 := fun h => h8 (sub_eq_iff_eq_add.mp h)
      rw [zzAdvance_strip hb h1, if_neg hbeside] at hplace
      exact hz ▸ hplace

/-- The walk that ZZINIT starts. -/
theorem onWay_start (g : Grid) : OnWay ⟨g, .run, Cursor.start⟩ := .inl ⟨rfl, upright_start⟩

theorem walkNumber_start (g : Grid) : walkNumber ⟨g, .run, Cursor.start⟩ = 0 := stepsTaken_start

/-- A walk that starts over Unset data cells places the bits. -/
theorem placing_start (bits : List Bool) {g : Grid}
    (hg : ∀ r c, r ≤ 20 → c ≤ 20 → isFunction r c = false → g.read r c = .unset) :
    Placing bits ⟨g, .run, Cursor.start⟩ where
  onWay := onWay_start g
  consumed := by rw [walkNumber_start, dataVisited_zero, Nat.min_zero]; rfl
  ahead r c hr hc hf _ := hg r c hr hc hf
  behind r c _ _ _ hlt := by rw [walkNumber_start] at hlt; omega

/-- Settles O51: the walk counts its steps, and over Unset data cells its bits. -/
theorem walkTakes420Steps : Obligations.WalkTakes420Steps := by
  intro bits g
  have hstart := onWay_start g
  have hiter := fun {n} hn => hstart.iterate_zzStep (bits := bits) (n := n) (by rwa [walkNumber_start, Nat.zero_add])
  have hend : (zzRun bits 420 ⟨g, .run, Cursor.start⟩).zst = .done := hstart.zzRun_done (by omega)
  refine ⟨fun n hn => ?_, by rw [hiter le_rfl, hend], fun hlen hg => ?_⟩
  · have hnum := hstart.walkNumber_zzRun (bits := bits) n
    have hon := hstart.zzRun (bits := bits) n
    rw [walkNumber_start] at hnum
    rw [hiter hn.le]
    exact (hon.running fun hz => by have := hon.done_iff.mp hz; omega).1
  · have hplaced := (placing_start bits hg).zzRun hlen 420
    obtain ⟨hrun, -⟩ | ⟨-, zn, hcur⟩ := hplaced.onWay
    · simp [hend] at hrun
    have hzn := hplaced.consumed
    rw [hplaced.onWay.done_iff.mp hend, dataVisited_walk, min_eq_left hlen] at hzn
    rw [hiter le_rfl, hcur, ← hzn, hcur, BitVec.ofNat_toNat, BitVec.setWidth_eq]

/-- Settles O50: a run takes the steps that are left, which visit the cells ahead; a step before it is one of them. -/
theorem zzrunRunsToTheEnd : Obligations.ZzrunRunsToTheEnd := by
  refine ⟨rfl, fun s he => ⟨fun hz => ?_, fun k hz hk hp hup hd hc htot => ?_⟩⟩
  · exact exec_outOfOrder he nofun (by simp [inOrder, needsState, hz])
  have hx : OnWay (walkFrom s k) := .inl ⟨hz, hp, hup⟩
  have hnotDone : (walkFrom s k).zst ≠ .done := by simp [walkFrom, hz]
  have hnum : walkNumber (walkFrom s k) = stepsTaken k := walkNumber_of_not_done hnotDone
  have hend : (zzRun (combinedBits s) WALKSTEPS (walkFrom s k)).zst = .done := hx.zzRun_done (Nat.le_add_left _ _)
  have hexec := (exec_zzrun he hz).trans (moveWriter_eq hk hp hd hc _)
  obtain ⟨hrun, -⟩ | ⟨-, zn, hcur⟩ := hx.zzRun (bits := combinedBits s) WALKSTEPS
  · simp [hend] at hrun
  refine ⟨_, _, hexec, State.withWalk_cursor _ _, by simp [withWalk_eq, hend], by rw [hcur], by rw [hcur],
    by rw [hcur], by rw [hcur], fun r c hr hc => ?_, fun v hv hvz => ?_⟩
  · rw [State.withWalk_g]
    refine ⟨fun hkept => hx.read_zzRun_of_kept _ hr hc (by rwa [hnum]), fun hf hahead => ?_⟩
    refine hx.read_zzRun_ne_unset _ hr hc hf (by rwa [hnum]) ?_
    rw [(hx.zzRun _).done_iff.mp hend]
    exact visitStep_lt hr
  · rw [(exec_zzstep he hz).trans (moveWriter_eq hk hp hd hc _)] at hv
    obtain rfl := Outcome.next.inj hv
    rw [State.withWalk_zst] at hvz
    have hlast : (zzStep (combinedBits s) (walkFrom s k)).zst ≠ .done := by simp [hvz]
    have hmove := moveWriter_eq (s := s.withWalk (zzStep (combinedBits s) (walkFrom s k))) (State.withWalk_cursor _ _)
      (zzStep_onPath _ hp) (by simpa using hd) (by simpa using hc) fun bits => zzRun bits WALKSTEPS
    rw [exec_zzrun (by simpa using he) (by simpa using hvz), hmove, withWalk_withWalk s hlast, hexec,
      ← hx.zzRun_zzStep hnotDone]
    simp [walkFrom, combinedBits]

/-- Settles O52: a run from the start places the bits, by the numbers of the printed map. -/
theorem placementFollowsPrintedMap : Obligations.PlacementFollowsPrintedMap := by
  intro s he hz hk hd hc htot hunset
  have hstart : walkFrom s Cursor.start = ⟨s.g, .run, Cursor.start⟩ := by rw [walkFrom, hz]
  have hexec := (exec_zzrun he hz).trans (moveWriter_eq hk upright_start.1 hd hc _)
  rw [hstart] at hexec
  have hlen : (combinedBits s).length ≤ 208 := by rw [combinedBits_length hd hc, totBits]; omega
  have hend := (onWay_start s.g).zzRun_done (bits := combinedBits s) (fuel := WALKSTEPS) (Nat.le_add_left _ _)
  have hplaced := (placing_start (combinedBits s) hunset).zzRun hlen WALKSTEPS
  refine ⟨_, hexec, by simp [hend], fun r c hr hc' => ⟨fun n hn => ?_, fun hn => ?_⟩⟩ <;> rw [State.withWalk_g]
  · obtain ⟨hf, rfl⟩ := (placementIndex_eq_some_iff hr hc').mp hn
    have hread := hplaced.behind r c hr hc' hf (by rw [hplaced.onWay.done_iff.mp hend]; exact visitStep_lt hr)
    rw [combinedBits, getD_codewordBits] at hread
    exact ⟨fun _ hb => hread.trans (congrArg colourOf hb), fun _ hb => hread.trans (congrArg colourOf hb),
      fun hle => hread.trans (congrArg colourOf (combinedBit_of_totBits_le hd hc hle))⟩
  · exact (onWay_start s.g).read_zzRun_of_kept _ hr hc' (.inl ((placementIndex_eq_none_iff hr hc').mp hn))

end Sys2Proof.Proofs

/-! # The cells a command writes

Seven commands write the grid, each in its own way (`Writes`). Which cells change follows from what the grid's
operations leave. -/

namespace Sys2Proof.Proofs

open Sys2Proof.Machine Sys2Proof.Safety

/-- The grid that command `i` leaves of state `s`. -/
inductive Writes (s : State) : Instr → Grid → Prop
  | nothing {i : Instr} : Writes s i s.g
  | fplace (hf : s.flag .fpv = false) : Writes s .fplace (drawFunctionPatterns s.g)
  | zzstep {k : Cursor} (hp : k.onPath = true) (bits : List Bool) : Writes s .zzstep (zzStep bits (walkFrom s k)).g
  | zzrun {k : Cursor} (hp : k.onPath = true) (bits : List Bool) :
      Writes s .zzrun (zzRun bits WALKSTEPS (walkFrom s k)).g
  | maskap {id : BitVec 3} : Writes s (.maskap id) (applyMask id s.g)
  | masksel (l : Level) : Writes s .masksel (select s.cfg l s.g).g
  | fmtwr {id : BitVec 3} (l : Level) : Writes s (.fmtwr id) (writeFormat s.cfg l id s.g)

theorem writes_of_exec {i : Instr} {s t : State} (hi : i ≠ .newreq) (h : exec i s = .next t) : Writes s i t.g := by
  obtain ⟨-, rfl⟩ | ⟨-, e, rfl⟩ | ⟨he, ho, heff⟩ := outcomes_of_exec hi h
  · exact .nothing
  · exact .nothing
  cases heff with
  | fplace => exact .fplace (not_flag_of_inOrder ho .fpv)
  | zzstep hk =>
    have hz : s.zst = .run := eq_of_beq (needsState_of_inOrder ho)
    rw [State.withWalk_g]
    exact .zzstep (onPath_of_moveWriter ((exec_zzstep he hz).symm.trans h) hk) _
  | zzrun hk =>
    have hz : s.zst = .run := eq_of_beq (needsState_of_inOrder ho)
    rw [State.withWalk_g]
    exact .zzrun (onPath_of_moveWriter ((exec_zzrun he hz).symm.trans h) hk) _
  | maskap => exact .maskap
  | masksel => exact .masksel _
  | fmtwr => exact .fmtwr _
  | _ => exact .nothing

section Frame

variable {s : State} {i : Instr} {g : Grid} {r c : Nat}

/-- A run from any cursor on the path writes no function cell (R203). -/
theorem read_zzRun_of_function {bits : List Bool} {x : Walk} (hp : x.cur.onPath = true) (fuel : Nat) (hc : c ≤ 20)
    (hf : isFunction r c = true) : (zzRun bits fuel x).g.read r c = x.g.read r c :=
  (zzRun_induction (P := fun y => y.cur.onPath = true ∧ y.g.read r c = x.g.read r c)
    (fun _ _ ⟨hy, hread⟩ => ⟨zzStep_onPath bits hy, (read_zzStep_of_function hy hc hf).trans hread⟩)
    fuel ⟨hp, rfl⟩).2

/-- The drawn cells are written by FPLACE alone (R198). -/
theorem Writes.read_of_drawn (h : Writes s i g) (hwf : s.cfg.wf = true) (hr : r ≤ 20) (hc : c ≤ 20) {m : GridModule}
    (hd : drawnAt r c = some m) (hf : s.flag .fpv = true) : g.read r c = s.g.read r c := by
  obtain ⟨hfun, hformat⟩ := kind_of_drawn hr hc hd
  cases h with
  | nothing => rfl
  | fplace hf' => exact absurd (hf.symm.trans hf') (by decide)
  | zzstep hp => exact read_zzStep_of_function hp hc hfun
  | zzrun hp => exact read_zzRun_of_function hp _ hc hfun
  | maskap => exact read_applyMask_of_function _ _ hr hc hfun
  | masksel l => exact (sameCells_select hwf l s.g).pattern hr hc hfun hformat
  | fmtwr l => exact read_writeFormat_of_not_format hwf l _ _ hc hformat

/-- The format cells are written by FMTWR and MASKSEL alone (R195, R198). -/
theorem Writes.read_of_format (h : Writes s i g) (hr : r ≤ 20) (hc : c ≤ 20) (hf : isFormat r c = true)
    (hsel : i ≠ .masksel) (hfmt : ∀ id, i ≠ .fmtwr id) : g.read r c = s.g.read r c := by
  have hfun := isFunction_of_isFormat hf
  cases h with
  | nothing => rfl
  | fplace => rw [read_drawFunctionPatterns _ hr hc, drawnAt_of_isFormat hf, Option.getD_none]
  | zzstep hp => exact read_zzStep_of_function hp hc hfun
  | zzrun hp => exact read_zzRun_of_function hp _ hc hfun
  | maskap => exact read_applyMask_of_function _ _ hr hc hfun
  | masksel => exact absurd rfl hsel
  | fmtwr => exact absurd rfl (hfmt _)

/-- A data cell is no format cell. -/
theorem isFormat_of_data (hf : isFunction r c = false) : isFormat r c = false :=
  Bool.eq_false_iff.mpr fun h => by simp [isFunction_of_isFormat h] at hf

/-- The data cells are written by ZZSTEP, ZZRUN, MASKAP and MASKSEL alone (R198). -/
theorem Writes.read_of_data (h : Writes s i g) (hwf : s.cfg.wf = true) (hr : r ≤ 20) (hc : c ≤ 20)
    (hf : isFunction r c = false) (hstep : i ≠ .zzstep) (hrun : i ≠ .zzrun) (hsel : i ≠ .masksel)
    (hmask : ∀ id, i ≠ .maskap id) : g.read r c = s.g.read r c := by
  cases h with
  | nothing => rfl
  | fplace => rw [read_drawFunctionPatterns _ hr hc, drawnAt_of_data hr hc hf, Option.getD_none]
  | zzstep => exact absurd rfl hstep
  | zzrun => exact absurd rfl hrun
  | maskap => exact absurd rfl (hmask _)
  | masksel => exact absurd rfl hsel
  | fmtwr l => exact read_writeFormat_of_not_format hwf l _ _ hc (isFormat_of_data hf)

end Frame

/-- Settles O17: kind of cell by kind of cell, what each way of writing the grid leaves. -/
theorem functionCellsImmutable : Obligations.FunctionCellsImmutable := by
  intro i s t hwf hi h r c hr hc
  have hw := writes_of_exec hi h
  refine ⟨fun hd hf => ?_, hw.read_of_format hr hc, hw.read_of_data hwf hr hc⟩
  obtain ⟨m, hm⟩ := Option.isSome_iff_exists.mp hd
  exact hw.read_of_drawn hwf hr hc hm hf

end Sys2Proof.Proofs

/-! # The placed bits

A data cell that the walk has visited holds its bit, flipped by the masks that MSKPAR records. The walk keeps this
because it places the bits (`Placing`) while no mask is recorded; masks and the selection flip in the grid what they
record in MSKPAR; and before the walk nothing is visited. -/

namespace Sys2Proof.Proofs

open Sys2Proof.Machine Sys2Proof.Safety

/-! ## The masks that MSKPAR records (R32, R233) -/

/-- Sums of bits add up term by term. -/
theorem foldl_xor_xor (f g : Nat → Bool) (ks : List Nat) (a b : Bool) :
    ks.foldl (fun p k => p ^^ (f k ^^ g k)) (a ^^ b) =
      (ks.foldl (fun p k => p ^^ f k) a ^^ ks.foldl (fun p k => p ^^ g k) b) := by
  induction ks generalizing a b with
  | nil => rfl
  | cons k ks ih =>
    have hhead : ((a ^^ b) ^^ (f k ^^ g k)) = ((a ^^ f k) ^^ (b ^^ g k)) := by
      simp only [Bool.xor_assoc, Bool.xor_left_comm]
    rw [List.foldl_cons, hhead, ih, List.foldl_cons, List.foldl_cons]

/-- Toggling bits of MSKPAR toggles their masks. -/
theorem maskedBy_xor (m m' : BitVec 8) (r c : Nat) :
    maskedBy (m ^^^ m') r c = (maskedBy m r c ^^ maskedBy m' r c) := by
  rw [maskedBy, maskedBy, maskedBy, ← foldl_xor_xor]
  simp only [BitVec.getLsbD_xor, Bool.and_xor_distrib_right, Bool.false_xor]

theorem maskedBy_zero (r c : Nat) : maskedBy 0 r c = false := by
  simp [maskedBy]

/-- The bit of one id stands for the id's mask. -/
theorem maskedBy_single (id : BitVec 3) (r c : Nat) : maskedBy (1#8 <<< id.toNat) r c = maskFormula id r c := by
  have hid : BitVec.ofNat 3 id.toNat = id := by simp
  have hlt := id.isLt
  rw [← hid]
  generalize id.toNat = n at *
  interval_cases n <;> simp [maskedBy, List.range_succ]

/-! ## The selection on data cells (R247) -/

/-- Two grids with the same data cells. -/
def SameData (g g' : Grid) : Prop := ∀ r c, r ≤ 20 → c ≤ 20 → isFunction r c = false → g'.read r c = g.read r c

section Selection

variable {cfg : Config} (h : cfg.wf = true) (l : Level)

include h

theorem sameData_writeFormat (id : BitVec 3) (g : Grid) : SameData g (writeFormat cfg l id g) :=
  fun _ _ _ hc hf => read_writeFormat_of_not_format h l id g hc (isFormat_of_data hf)

/-- A trial undoes its mask (R233, R247). -/
theorem sameData_trial (id : BitVec 3) (g : Grid) : SameData g (trial cfg l id g).1 := by
  intro r c hr hc hf
  have hscored := sameData_writeFormat h l id (applyMask id g) r c hr hc hf
  rw [read_applyMask id g hr hc] at hscored
  rw [trial, read_applyMask id _ hr hc, hscored]
  split <;> simp

omit h in
theorem selectStep_g (x : Selection) (id : BitVec 3) : (selectStep cfg l x id).g = (trial cfg l id x.g).1 := by
  simp only [selectStep]
  split <;> rfl

theorem sameData_foldl_selectStep (ids : List (BitVec 3)) (x : Selection) :
    SameData x.g (ids.foldl (selectStep cfg l) x).g := by
  induction ids generalizing x with
  | nil => exact fun _ _ _ _ _ => rfl
  | cons id ids ih =>
    intro r c hr hc hf
    have htrial := sameData_trial h l id x.g r c hr hc hf
    rw [List.foldl_cons, ih _ r c hr hc hf, selectStep_g]
    exact htrial

omit h in
theorem select_eq (g : Grid) : (select cfg l g).best = (trials cfg l g).best ∧
    (select cfg l g).g = writeFormat cfg l (trials cfg l g).best (applyMask (trials cfg l g).best (trials cfg l g).g) := by
  simp only [select, and_self]

theorem sameData_trials (g : Grid) : SameData g (trials cfg l g).g := fun r c hr hc hf =>
  (sameData_foldl_selectStep h l [1, 2, 3, 4, 5, 6, 7] _ r c hr hc hf).trans (sameData_trial h l 0 g r c hr hc hf)

/-- The selection flips the data cells that the best mask flips (R247). -/
theorem read_select_of_data (g : Grid) {r c : Nat} (hr : r ≤ 20) (hc : c ≤ 20) (hf : isFunction r c = false) :
    (select cfg l g).g.read r c =
      if maskFormula (select cfg l g).best r c then flipModule (g.read r c) else g.read r c := by
  obtain ⟨hbest, hg⟩ := select_eq (cfg := cfg) l g
  rw [hbest, hg, sameData_writeFormat h l _ _ r c hr hc hf, read_applyMask _ _ hr hc, hf,
    sameData_trials h l g r c hr hc hf, Bool.not_false, Bool.true_and]

end Selection

/-! ## What keeps the placed bits -/

section PlacedBits

variable {s t : State}

/-- A walk that has not started has placed nothing. -/
theorem placedBits_of_idle (hz : s.zst = .idle) : PlacedBits s := by
  intro r c n _ _ _ hv
  simp [visited_eq, hz] at hv

theorem flipModule_colourOf (b : Bool) : flipModule (colourOf b) = colourOf (!b) := by cases b <;> rfl

/-- Flipping cells is recording it: while the walk and the codewords stay, the placed bits do. -/
theorem placedBits_flip (h : PlacedBits s) (hz : t.zst = s.zst) (hk : t.cursor = s.cursor) (hd : t.dcw = s.dcw)
    (hc : t.ecw = s.ecw) (htot : totBits t = totBits s) (f : Nat → Nat → Bool)
    (hread : ∀ r c, r ≤ 20 → c ≤ 20 → isFunction r c = false →
      t.g.read r c = if f r c then flipModule (s.g.read r c) else s.g.read r c)
    (hmask : ∀ r c, maskedBy t.mskpar r c = (maskedBy s.mskpar r c ^^ f r c)) : PlacedBits t := by
  intro r c n hr hc' hn hv
  obtain ⟨hf, -⟩ := (placementIndex_eq_some_iff hr hc').mp hn
  have hold := h r c n hr hc' hn (by rwa [visited_eq, ← hz, ← hk])
  rw [hread r c hr hc' hf, hmask, hd, hc, htot, hold, flipModule_colourOf]
  cases f r c <;> simp

/-- The same with no cell flipped. -/
theorem placedBits_keep (h : PlacedBits s) (hz : t.zst = s.zst) (hk : t.cursor = s.cursor) (hd : t.dcw = s.dcw)
    (hc : t.ecw = s.ecw) (htot : totBits t = totBits s) (hread : SameData s.g t.g) (hmask : t.mskpar = s.mskpar) :
    PlacedBits t :=
  placedBits_flip h hz hk hd hc htot (fun _ _ => false) hread fun r c => by rw [hmask, Bool.xor_false]

/-- While no mask is recorded, the placed bits are those of the combined bit string in their places. -/
theorem placedBits_iff (hd : s.dcw.length = s.dlen.toNat) (hc : s.ecw.length = s.elen.toNat) (hm : s.mskpar = 0) :
    PlacedBits s ↔ ∀ r c, r ≤ 20 → c ≤ 20 → isFunction r c = false → visited s r c = true →
      s.g.read r c = colourOf ((combinedBits s)[dataVisited (visitStep r c)]?.getD false) := by
  have hbit : ∀ n, (decide (n < totBits s) && combinedBit (s.dcw ++ s.ecw) n) = (combinedBits s)[n]?.getD false := by
    intro n
    rw [combinedBits, getD_codewordBits]
    by_cases hn : n < totBits s
    · simp [hn]
    · rw [combinedBit_of_totBits_le hd hc (Nat.le_of_not_lt hn), Bool.and_false]
  simp only [PlacedBits, hm, maskedBy_zero, Bool.xor_false, hbit]
  constructor
  · exact fun h r c hr hc hf hv => h r c _ hr hc ((placementIndex_eq_some_iff hr hc).mpr ⟨hf, rfl⟩) hv
  · intro h r c n hr hc hn hv
    obtain ⟨hf, rfl⟩ := (placementIndex_eq_some_iff hr hc).mp hn
    exact h r c hr hc hf hv

/-- The entries that the writer of a running state reads are the combined bit string, at most one bit for each data
cell (R199). -/
theorem Parts.combinedBits_of_entries (hs : Parts s) (hz : s.zst = .run) {data ec : List Byte}
    (hdata : entries s.dcw s.dlen.toNat = some data) (hec : entries s.ecw s.elen.toNat = some ec) :
    codewordBits (data ++ ec) = combinedBits s ∧ (combinedBits s).length ≤ 208 := by
  obtain ⟨hlen, htot⟩ := hs.codewordBits_length hz hdata hec
  obtain rfl := Option.some.inj ((entries_of_length hs.codeword.dcwLength).symm.trans hdata)
  obtain rfl := Option.some.inj ((entries_of_length hs.codeword.ecwLength).symm.trans hec)
  exact ⟨rfl, hlen.trans_le htot⟩

/-- No mask is recorded while the writer has not finished (R235). -/
theorem Parts.unmasked (hs : Parts s) (hz : s.zst ≠ .done) : s.mskpar = 0 := by
  by_contra hm
  have hplv := hs.grid.plv_eq_false hz
  simp [hs.grid.masked hm] at hplv

/-- A walk has visited the cells of the steps that it has taken (R205). -/
theorem OnWay.visitedBy_iff {x : Walk} (h : OnWay x) {r c : Nat} (hr : r ≤ 20) :
    visitedBy x.zst (some x.cur) r c = true ↔ visitStep r c < walkNumber x := by
  by_cases hz : x.zst = .done
  · simpa [hz, h.done_iff.mp hz] using visitStep_lt hr
  · simp [(h.running hz).1, walkNumber_of_not_done hz]

/-- The walk of a running writer places the bits. -/
theorem Parts.placing (hs : Parts s) (h : PlacedBits s) (hz : s.zst = .run) {k : Cursor} (hk : s.cursor = some k) :
    Placing (combinedBits s) (walkFrom s k) := by
  have hg := hs.grid
  have hx := hg.walking hz hk
  have hd := hs.codeword.dcwLength
  have hc := hs.codeword.ecwLength
  have hnum : walkNumber (walkFrom s k) = stepsTaken k := walkNumber_of_not_done (by simp [walkFrom, hz])
  have hmask := hs.unmasked (by simp [hz])
  refine ⟨.inl ⟨hz, hx.upright⟩, ?_, fun r c hr hc' hf hlt => ?_, fun r c hr hc' hf hlt => ?_⟩ <;> rw [hnum] at *
  · rw [combinedBits_length hd hc]
    exact hx.consumed
  · exact not_not.mp (mt (hx.dataCells r c hr hc' hf).mp (Nat.not_lt.mpr hlt))
  · exact (placedBits_iff hd hc hmask).mp h r c hr hc' hf (by simpa [visited_eq, hz, hk] using hlt)

/-- The state after the writer has placed bits holds them. -/
theorem Parts.placedBits_withWalk (hs : Parts s) (hz : s.zst = .run) {x : Walk} (hx : Placing (combinedBits s) x) :
    PlacedBits (s.withWalk x) := by
  have hd : (s.withWalk x).dcw.length = (s.withWalk x).dlen.toNat := by
    rw [State.withWalk_dcw, State.withWalk_dlen]
    exact hs.codeword.dcwLength
  have hc : (s.withWalk x).ecw.length = (s.withWalk x).elen.toNat := by
    rw [State.withWalk_ecw, State.withWalk_elen]
    exact hs.codeword.ecwLength
  have hmask : (s.withWalk x).mskpar = 0 := by rw [State.withWalk_mskpar, hs.unmasked (by simp [hz])]
  refine (placedBits_iff hd hc hmask).mpr fun r c hr hc' hf hv => ?_
  rw [visited_eq, State.withWalk_zst, State.withWalk_cursor, hx.onWay.visitedBy_iff hr] at hv
  rw [State.withWalk_g, combinedBits, State.withWalk_dcw, State.withWalk_ecw]
  exact hx.behind r c hr hc' hf hv

end PlacedBits

/-- Every effect keeps the placed bits. -/
theorem Effect.placedBits {s t : State} {i : Instr} (heff : Effect s i t) (hs : Parts s) (ho : inOrder i s = true)
    (h : PlacedBits s) : PlacedBits t := by
  have hg := hs.grid
  cases heff with
  | dcwpush | rsenc => exact placedBits_of_idle (hg.idle_of_not_encoded (not_flag_of_inOrder ho .ecwv))
  | bspad =>
    have hempty := hs.codeword.noCodewords (hs.message.raw_eq_false (flag_of_inOrder ho .asmv))
      (not_flag_of_inOrder ho .padv)
    exact placedBits_of_idle (hg.idle_of_not_encoded hempty.2)
  | fplace =>
    refine placedBits_of_idle (Classical.not_not.mp fun hz => ?_)
    exact absurd ((hg.started hz).1.symm.trans (not_flag_of_inOrder ho .fpv)) (by decide)
  | zzinit =>
    intro r c n _ _ _ hv
    simp [visited_eq, stepsTaken_start] at hv
  | zzstep hk hdata hec =>
    have hrun : s.zst = .run := eq_of_beq (needsState_of_inOrder ho)
    obtain ⟨hbits, hlen⟩ := hs.combinedBits_of_entries hrun hdata hec
    rw [hbits]
    exact hs.placedBits_withWalk hrun ((hs.placing h hrun hk).zzStep (by simp [walkFrom, hrun]) hlen)
  | zzrun hk hdata hec =>
    have hrun : s.zst = .run := eq_of_beq (needsState_of_inOrder ho)
    obtain ⟨hbits, hlen⟩ := hs.combinedBits_of_entries hrun hdata hec
    rw [hbits]
    exact hs.placedBits_withWalk hrun ((hs.placing h hrun hk).zzRun hlen WALKSTEPS)
  | @maskap id =>
    refine placedBits_flip h rfl rfl rfl rfl rfl (maskFormula id) (fun r c hr hc hf => ?_) fun r c => ?_
    · rw [read_applyMask id s.g hr hc, hf, Bool.not_false, Bool.true_and]
    · rw [maskedBy_xor, maskedBy_single]
  | @masksel l =>
    have hmask : s.mskpar = 0 := eq_of_beq (needsState_of_inOrder ho)
    have hread := fun r c hr hc hf => read_select_of_data hs.cfgWf l s.g (r := r) (c := c) hr hc hf
    generalize select s.cfg l s.g = x at hread
    refine placedBits_flip h rfl rfl rfl rfl rfl (maskFormula x.best) hread fun r c => ?_
    exact (maskedBy_single _ r c).trans (by rw [hmask, maskedBy_zero, Bool.false_xor])
  | @fmtwr id l => exact placedBits_keep h rfl rfl rfl rfl rfl (sameData_writeFormat hs.cfgWf l id s.g) rfl
  | _ => exact h

theorem exec_keeps_placedBits {i : Instr} {s t : State} (hs : Parts s) (h : PlacedBits s) (hx : exec i s = .next t) :
    PlacedBits t := by
  obtain ⟨-, rfl⟩ | ⟨-, ⟨-, rfl⟩ | ⟨-, e, rfl⟩ | ⟨-, ho, heff⟩⟩ := exec_next hx
  · exact placedBits_of_idle rfl
  · exact h
  · exact h
  · exact heff.placedBits hs ho h

/-- Settles O24: a reset places nothing; an illegal word and an error change no cell; an effect keeps the bits. -/
theorem stepKeepsPlacedBits : Obligations.StepKeepsPlacedBits := by
  intro s t hinv h hstep
  have hs := Parts.of_inv hinv
  obtain ⟨-, rfl⟩ | ⟨rest, -, rfl⟩ | ⟨w, rest, -, ⟨i, -, hx⟩ | ⟨-, hx⟩⟩ := step_next hstep
  · exact h
  · exact placedBits_of_idle rfl
  · exact exec_keeps_placedBits (hs.setInbox rest) h hx
  · obtain ⟨-, rfl⟩ | ⟨-, rfl⟩ := illegalCommand_next hx
    · exact h
    · exact h

end Sys2Proof.Proofs

/-! # The mask unit

What MASKAP answers, and the laws of the masks. -/

namespace Sys2Proof.Proofs

open Sys2Proof.Machine Sys2Proof.Safety

theorem encodeM3_eq_add (op : BitVec 8) (id : BitVec 3) : encodeM3 op id = op.setWidth 32 <<< 24 + id.setWidth 32 := by
  have h : (encodeM3 op id).toNat = ((op ++ (0 : BitVec 21)) ++ id).toNat := rfl
  simp only [toNat_append_eq_add] at h
  apply BitVec.eq_of_toNat_eq
  simp [h, Nat.shiftLeft_eq]
  omega

/-! ## The formulas (R231) -/

/-- Settles O57: the blocks are compared entry by entry, and the 441 cells are counted for each formula. -/
theorem maskFormulasMatchPrintedBlocks : Obligations.MaskFormulasMatchPrintedBlocks :=
  ⟨by decide +kernel, by decide +kernel⟩

/-! ## Masks on the grid (R232, R233) -/

/-- A mask changes the data cells of its formula. -/
theorem read_applyMask_of_flipped (id : BitVec 3) (g : Grid) {r c : Nat} (hr : r ≤ 20) (hc : c ≤ 20)
    (hf : isFunction r c = false) (hm : maskFormula id r c = true) :
    (applyMask id g).read r c = flipModule (g.read r c) := by
  simp [read_applyMask id g hr hc, hf, hm]

/-- A mask leaves every other cell. -/
theorem read_applyMask_of_kept (id : BitVec 3) (g : Grid) {r c : Nat} (hr : r ≤ 20) (hc : c ≤ 20)
    (h : isFunction r c = true ∨ maskFormula id r c = false) : (applyMask id g).read r c = g.read r c := by
  rcases h with h | h <;> simp [read_applyMask id g hr hc, h]

/-- A mask undoes itself cell by cell. -/
theorem read_applyMask_applyMask (id : BitVec 3) (g : Grid) {r c : Nat} (hr : r ≤ 20) (hc : c ≤ 20) :
    (applyMask id (applyMask id g)).read r c = g.read r c := by
  rw [read_applyMask id _ hr hc, read_applyMask id g hr hc]
  split
  · exact flipModule_flipModule _
  · rfl

/-- On a grid in canonical form a mask undoes itself. -/
theorem applyMask_applyMask (id : BitVec 3) {g : Grid} (hg : Memory.wf g = true) :
    applyMask id (applyMask id g) = g :=
  Grid.ext_of_read (applyMask_wf _ _) hg fun _ _ hr hc => read_applyMask_applyMask id g hr hc

/-- Each mask flips by its own formula, so the order does not matter. -/
theorem applyMask_comm (i j : BitVec 3) (g : Grid) : applyMask i (applyMask j g) = applyMask j (applyMask i g) := by
  refine Grid.ext_of_read (applyMask_wf _ _) (applyMask_wf _ _) fun r c hr hc => ?_
  rw [read_applyMask i _ hr hc, read_applyMask j _ hr hc, read_applyMask j _ hr hc, read_applyMask i _ hr hc]
  split_ifs <;> rfl

/-! ## MASKAP (R235) -/

theorem exec_maskap {s : State} (he : s.err = 0) (hp : s.flag .plv = true) (hd : s.flag .done = false)
    (id : BitVec 3) : exec (.maskap id) s =
      .next { s with g := applyMask id s.g, mskpar := s.mskpar ^^^ (1#8 <<< id.toNat) } := by
  rw [exec, execMaskap, command_inOrder he _ (by simp [hp, hd])]

/-- Settles O53: the flags, then the masked grid and the toggled bit. -/
theorem maskapFlipsDataCells : Obligations.MaskapFlipsDataCells := by
  refine ⟨encodeM3_eq_add 0x50, fun s id he => ⟨fun h => ?_, fun hp hd => ?_⟩⟩
  · exact exec_outOfOrder he nofun (by rcases h with h | h <;> simp [inOrder, needsOne, needsZero, h])
  · refine ⟨_, exec_maskap he hp hd id, rfl, applyMask_wf id s.g, fun r c hr hc => ⟨fun hf hm => ?_, ?_⟩⟩
    · have hflip := read_applyMask_of_flipped id s.g hr hc hf hm
      exact ⟨fun hl => hflip.trans (by rw [hl]; rfl), fun hk => hflip.trans (by rw [hk]; rfl)⟩
    · exact read_applyMask_of_kept id s.g hr hc

/-- Settles O54: a mask that took effect found its flags, which it leaves, so the second takes effect too and undoes
the first in the grid and in MSKPAR. -/
theorem maskIsInvolution : Obligations.MaskIsInvolution := by
  refine ⟨fun s t id hg he _ hx ht => ?_, fun i j g _ => applyMask_comm i j g⟩
  obtain ⟨hne, -⟩ | ⟨-, -, rfl⟩ | ⟨-, ho, rfl⟩ := execMaskap_next hx
  · exact absurd he hne
  · exact absurd ht (show (5 : BitVec 4) ≠ 0 by decide)
  · refine (exec_maskap ht (flag_of_inOrder ho .plv :) (not_flag_of_inOrder ho .done :) id).trans ?_
    rw [applyMask_applyMask id hg, BitVec.xor_assoc, BitVec.xor_self, BitVec.xor_zero]

end Sys2Proof.Proofs

/-! # The penalty

Each of the four terms in a second form: the runs of a line as windows of five like cells, the blocks and the dark
cells by address, the patterns as pictures. The second form also bounds the score. -/

namespace Sys2Proof.Proofs

open Sys2Proof.Machine Sys2Proof.Safety

/-! ## Counting over an interval -/

/-- Counting below n + 1 counts 0 and then the successors. -/
theorem countP_range_succ_left (p : Nat → Bool) (n : Nat) :
    (List.range (n + 1)).countP p = (if p 0 then 1 else 0) + (List.range n).countP fun i => p (i + 1) := by
  rw [List.range_succ_eq_map, List.countP_cons, List.countP_map, Nat.add_comm]
  rfl

/-- Nothing that lies below m is counted from m on. -/
theorem countP_range_add_of_lt (p : Nat → Bool) (m k : Nat) :
    (List.range (m + k)).countP (fun i => decide (i < m) && p i) = (List.range m).countP p := by
  have hbelow : (List.range m).countP (fun i => decide (i < m) && p i) = (List.range m).countP p :=
    List.countP_congr fun i hi => by simp [List.mem_range.mp hi]
  have habove : ((List.range k).map (m + ·)).countP (fun i => decide (i < m) && p i) = 0 :=
    List.countP_eq_zero.mpr (by simp)
  rw [List.range_add, List.countP_append, hbelow, habove, Nat.add_zero]

theorem countP_range_le (p : Nat → Bool) (n : Nat) : (List.range n).countP p ≤ n :=
  List.countP_le_length.trans_eq List.length_range

/-- Counting row by row is counting by row-major address (R14). -/
theorem sum_countP_range (p : Nat → Nat → Bool) (m : Nat) {n : Nat} (hn : 0 < n) :
    ((List.range m).map fun r => (List.range n).countP (p r)).sum =
      (List.range (m * n)).countP fun a => p (a / n) (a % n) := by
  induction m with
  | zero => simp
  | succ m ih =>
    have hrow : (List.range n).countP (p m) =
        ((List.range n).map (m * n + ·)).countP fun a => p (a / n) (a % n) := by
      rw [List.countP_map]
      refine List.countP_congr fun c hc => ?_
      have hlt := List.mem_range.mp hc
      simp [Nat.mul_comm m n, Nat.mul_add_div hn, Nat.div_eq_of_lt hlt, Nat.mod_eq_of_lt hlt]
    rw [List.range_succ, List.map_append, List.sum_append, ih, List.map_singleton, List.sum_singleton, hrow,
      Nat.succ_mul, List.range_add, List.countP_append]

/-! ## Runs (R238) -/

/-- The length of the run that a line begins with. -/
def headRun (cells : List GridModule) : Nat := (runLengths cells).headD 0

theorem runLengths_cons_ne_nil (a : GridModule) (cells : List GridModule) : runLengths (a :: cells) ≠ [] := by
  cases cells with
  | nil => simp [runLengths]
  | cons b rest =>
    rw [runLengths]
    split
    · split <;> simp
    · simp

theorem runLengths_cons_cons (a b : GridModule) (rest : List GridModule) :
    runLengths (a :: b :: rest) =
      if a = b then (headRun (b :: rest) + 1) :: (runLengths (b :: rest)).tail else 1 :: runLengths (b :: rest) := by
  rw [runLengths, headRun]
  cases h : runLengths (b :: rest) with
  | nil => exact absurd h (runLengths_cons_ne_nil b rest)
  | cons n ns => rfl

theorem headRun_cons_cons (a b : GridModule) (rest : List GridModule) :
    headRun (a :: b :: rest) = if a = b then headRun (b :: rest) + 1 else 1 := by
  rw [headRun, runLengths_cons_cons]
  split <;> rfl

theorem headRun_pos (a : GridModule) (cells : List GridModule) : 1 ≤ headRun (a :: cells) := by
  cases cells with
  | nil => exact le_rfl
  | cons b rest => rw [headRun_cons_cons]; split <;> omega

theorem headRun_le_length : ∀ cells : List GridModule, headRun cells ≤ cells.length
  | [] => le_rfl
  | [_] => le_rfl
  | a :: b :: rest => by
    have ih := headRun_le_length (b :: rest)
    rw [headRun_cons_cons, List.length_cons]
    split <;> omega

/-- A cell of another colour begins a run of its own, whose cost is 0. -/
theorem n1Line_cons_of_ne {a b : GridModule} (h : a ≠ b) (rest : List GridModule) :
    n1Line (a :: b :: rest) = n1Line (b :: rest) := by
  rw [n1Line, runLengths_cons_cons, if_neg h, List.map_cons, List.sum_cons, n1Line]
  exact Nat.zero_add _

/-- A cell of the same colour makes the first run one longer. -/
theorem n1Line_cons_of_eq (a : GridModule) (rest : List GridModule) :
    n1Line (a :: a :: rest) + runCost (headRun (a :: rest)) =
      n1Line (a :: rest) + runCost (headRun (a :: rest) + 1) := by
  rw [n1Line, runLengths_cons_cons, if_pos rfl, n1Line, headRun]
  cases h : runLengths (a :: rest) with
  | nil => exact absurd h (runLengths_cons_ne_nil a rest)
  | cons n ns => simp only [List.headD_cons, List.tail_cons, List.map_cons, List.sum_cons]; omega

/-! ## Windows of five like cells -/

/-- The window of five cells from index i on lies within the line and is of one colour. -/
def fullWindow (cells : List GridModule) (i : Nat) : Bool := decide (i + 5 ≤ cells.length) && likeWindow cells i

/-- The cell before index i, the first cell having `prev` before it. -/
def cellBefore (prev : Option GridModule) (cells : List GridModule) : Nat → Option GridModule
  | 0 => prev
  | i + 1 => cells[i]?

@[simp] theorem cellBefore_zero (prev : Option GridModule) (cells : List GridModule) :
    cellBefore prev cells 0 = prev := rfl

@[simp] theorem cellBefore_succ (prev : Option GridModule) (cells : List GridModule) (i : Nat) :
    cellBefore prev cells (i + 1) = cells[i]? := rfl

/-- The number of windows of five like cells. -/
def windowCount (cells : List GridModule) : Nat := (List.range cells.length).countP (fullWindow cells)

/-- The number of those windows that a run starts with, when `prev` stands before the line. -/
def startCount (prev : Option GridModule) (cells : List GridModule) : Nat :=
  (List.range cells.length).countP fun i => fullWindow cells i && cellBefore prev cells i != cells[i]?

theorem fullWindow_cons_succ (a : GridModule) (cells : List GridModule) (i : Nat) :
    fullWindow (a :: cells) (i + 1) = fullWindow cells i := by
  simp only [fullWindow, likeWindow, List.length_cons, List.getElem?_cons_succ, Nat.add_right_comm i 1,
    Nat.add_le_add_iff_right]

/-- A line begins with five like cells exactly when its first run has five cells. -/
theorem fullWindow_zero (cells : List GridModule) : fullWindow cells 0 = decide (5 ≤ headRun cells) := by
  by_cases hlen : 5 ≤ cells.length
  · match cells, hlen with
    | a :: b :: c :: d :: e :: rest, _ =>
      have hpos := headRun_pos e rest
      have hwindow : fullWindow (a :: b :: c :: d :: e :: rest) 0 = decide (a = b ∧ a = c ∧ a = d ∧ a = e) := by
        rw [Bool.eq_iff_iff]
        simp [fullWindow, likeWindow, and_assoc]
      rw [hwindow, decide_eq_decide]
      simp only [headRun_cons_cons]
      split_ifs <;> grind
  · have hrun := headRun_le_length cells
    rw [fullWindow, decide_eq_false (by omega), decide_eq_false (by omega), Bool.false_and]

theorem windowCount_cons (a : GridModule) (cells : List GridModule) :
    windowCount (a :: cells) = (if 5 ≤ headRun (a :: cells) then 1 else 0) + windowCount cells := by
  simp only [windowCount, List.length_cons, countP_range_succ_left, fullWindow_cons_succ, fullWindow_zero,
    decide_eq_true_eq]

theorem startCount_cons (prev : Option GridModule) (a : GridModule) (cells : List GridModule) :
    startCount prev (a :: cells) =
      (if 5 ≤ headRun (a :: cells) ∧ prev ≠ some a then 1 else 0) + startCount (some a) cells := by
  have hbefore : ∀ i, cellBefore prev (a :: cells) (i + 1) = cellBefore (some a) cells i := by
    intro i
    cases i <;> rfl
  simp only [startCount, List.length_cons, countP_range_succ_left, fullWindow_cons_succ, fullWindow_zero, hbefore,
    List.getElem?_cons_succ, List.getElem?_cons_zero, cellBefore_zero, Bool.and_eq_true, decide_eq_true_eq,
    bne_iff_ne]

/-- A cell in front of a line takes the start from a first run of five of its colour. -/
theorem startCount_none_cons (a b : GridModule) (rest : List GridModule) :
    startCount none (b :: rest) =
      (if 5 ≤ headRun (b :: rest) ∧ a = b then 1 else 0) + startCount (some a) (b :: rest) := by
  rw [startCount_cons, startCount_cons]
  by_cases hab : a = b <;> simp [hab]

/-- A run of L ≥ 5 cells has L − 4 windows and one start, and costs L − 2. -/
theorem n1Line_eq_counts : ∀ cells : List GridModule, n1Line cells = windowCount cells + 2 * startCount none cells
  | [] => rfl
  | [_] => rfl
  | a :: b :: rest => by
    have ih := n1Line_eq_counts (b :: rest)
    rw [startCount_none_cons a] at ih
    rw [windowCount_cons, startCount_cons, headRun_cons_cons]
    by_cases hab : a = b
    · subst hab
      have hcost := n1Line_cons_of_eq a rest
      simp only [runCost] at hcost
      simp only [and_true, if_true, ne_eq, reduceCtorEq, not_false_eq_true] at ih ⊢
      split_ifs at * <;> omega
    · rw [n1Line_cons_of_ne hab, ih]
      simp [hab]

/-! ## The terms of the score (R236) -/

theorem rowLine_length (g : Grid) (r : Nat) : (rowLine g r).length = 21 := by simp [rowLine, SIZE]

theorem columnLine_length (g : Grid) (c : Nat) : (columnLine g c).length = 21 := by simp [columnLine, SIZE]

theorem length_of_mem_gridLines {g : Grid} {cells : List GridModule} (h : cells ∈ gridLines g) :
    cells.length = 21 := by
  rcases List.mem_append.mp h with h | h <;> obtain ⟨k, -, rfl⟩ := List.mem_map.mp h
  · exact rowLine_length g k
  · exact columnLine_length g k

theorem gridLines_length (g : Grid) : (gridLines g).length = 42 := by simp [gridLines, SIZE]

/-- N1 of a line of 21 cells by its 17 windows (R238). -/
theorem n1Line_eq_windows {cells : List GridModule} (h : cells.length = 21) :
    n1Line cells = (List.range 17).countP (fun i => likeWindow cells i) +
      2 * (List.range 17).countP (fun i => likeWindow cells i && (i == 0 || cells[i - 1]? != cells[i]?)) := by
  have hfull : ∀ i, fullWindow cells i = (decide (i < 17) && likeWindow cells i) := fun i => by
    have hin : i + 5 ≤ 21 ↔ i < 17 := by omega
    rw [fullWindow, h, decide_eq_decide.mpr hin]
  have hstart : ∀ i < 17, (cellBefore none cells i != cells[i]?) = (i == 0 || cells[i - 1]? != cells[i]?) := by
    intro i hi
    cases i with
    | zero => simp [h]
    | succ i => simp
  rw [n1Line_eq_counts, windowCount, startCount, h, funext hfull]
  simp only [Bool.and_assoc]
  rw [countP_range_add_of_lt _ 17 4, countP_range_add_of_lt _ 17 4]
  congr 2
  exact List.countP_congr fun i hi => by rw [hstart i (List.mem_range.mp hi)]

/-- N2 with its 400 blocks by address (R239). -/
theorem n2_eq_countP (g : Grid) :
    n2 g = 3 * (List.range 400).countP fun a => uniformBlock g (a / 20) (a % 20) :=
  congrArg (3 * ·) (sum_countP_range (uniformBlock g) 20 (by decide))

/-- The dark cells by address (R244). -/
theorem darkCount_eq_countP (g : Grid) :
    darkCount g = (List.range 441).countP fun a => g.read (a / 21) (a % 21) == .dark := by
  rw [← sum_countP_range (fun r c => g.read r c == .dark) 21 (by decide)]
  simp only [darkCount, rowLine, List.countP_map]
  rfl

/-- N4 as the floor of the exact ratio (R244). -/
theorem n4_eq_natAbs (dark : Nat) : n4 dark = 10 * ((100 * (dark : Int) - 22050).natAbs / 2205) := by
  have hdist : (100 * (dark : Int) - 22050).natAbs = max (100 * dark) 22050 - min (100 * dark) 22050 := by omega
  rw [n4, hdist]

/-- The cells can be read back from their picture. -/
theorem map_pictured_pictureOf (cells : List GridModule) : (pictureOf cells).map pictured = cells := by
  rw [pictureOf, List.map_map]
  exact (List.map_congr_left fun m _ => by cases m <;> rfl).trans cells.map_id

theorem pictureOf_injective : Function.Injective pictureOf :=
  Function.LeftInverse.injective map_pictured_pictureOf

/-- The occurrences of a pattern are the matches of its picture (R241, R243). -/
theorem occurrences_eq_countP (pattern cells : List GridModule) :
    occurrences pattern cells =
      (List.range 11).countP fun i => pictureOf ((cells.drop i).take 11) == pictureOf pattern := by
  refine List.countP_congr fun i _ => ?_
  rw [beq_iff_eq, beq_iff_eq, pictureOf_injective.eq_iff]

theorem printedMatches_eq_occurrences (cells : List GridModule) :
    printedMatches cells = occurrences patternAfter cells + occurrences patternBefore cells := by
  rw [occurrences_eq_countP, occurrences_eq_countP]
  rfl

/-- N3FN of a line: a count that its listing gives, or, where it has none, the matches of the two patterns (R243). -/
theorem n3Count_cases (c : Config) (cells : List GridModule) :
    (cells, n3Count c cells) ∈ c.n3fn ∨ (∀ n, (cells, n) ∉ c.n3fn) ∧ n3Count c cells = printedMatches cells := by
  rw [n3Count]
  cases hfind : c.n3fn.find? fun e => e.1 == cells with
  | some e =>
    obtain rfl : e.1 = cells := by simpa using List.find?_some hfind
    exact .inl (List.mem_of_find?_eq_some hfind)
  | none =>
    refine .inr ⟨fun n hn => ?_, (printedMatches_eq_occurrences cells).symm⟩
    simpa using List.find?_eq_none.mp hfind _ hn

/-- Settles O58: term by term, the lines by their windows and counts, the blocks and the dark cells by address. -/
theorem penaltyTermsByCounting : Obligations.PenaltyTermsByCounting := by
  intro c g count hlisted hdefault
  have hcount : ∀ cells, n3Count c cells = count cells := fun cells => by
    rcases n3Count_cases c cells with hmem | ⟨hnone, heq⟩
    · exact (hlisted _ _ hmem).symm
    · exact heq.trans (hdefault cells hnone).symm
  rw [penaltyScore, List.map_congr_left fun cells h => n1Line_eq_windows (length_of_mem_gridLines h),
    n2_eq_countP, darkCount_eq_countP, n4_eq_natAbs, List.map_congr_left fun cells _ => hcount cells]
  rfl

/-! ## The bound of the score (R245) -/

theorem n1Line_le {cells : List GridModule} (h : cells.length = 21) : n1Line cells ≤ 51 := by
  rw [n1Line_eq_windows h]
  exact Nat.add_le_add (countP_range_le _ 17) (Nat.mul_le_mul_left 2 (countP_range_le _ 17))

theorem n2_le (g : Grid) : n2 g ≤ 1200 := by
  rw [n2_eq_countP]
  exact Nat.mul_le_mul_left 3 (countP_range_le _ 400)

theorem n4_darkCount_le (g : Grid) : n4 (darkCount g) ≤ 100 := by
  have hdark : darkCount g ≤ 441 := (darkCount_eq_countP g).trans_le (countP_range_le _ 441)
  rw [n4]
  omega

/-- A listed count is below 2^20 (log 13), and the two patterns have 11 places each. -/
theorem n3Count_le {c : Config} (h : c.wf = true) (cells : List GridModule) : n3Count c cells ≤ 2 ^ 20 := by
  rcases n3Count_cases c cells with hmem | ⟨-, heq⟩
  · obtain ⟨-, -, -, hparams⟩ := checks_of_wf h
    simp only [Config.paramsWf, Bool.and_eq_true, List.all_eq_true, decide_eq_true_eq] at hparams
    exact (hparams.2 _ hmem).le
  · exact heq.trans_le ((Nat.add_le_add (countP_range_le _ 11) (countP_range_le _ 11)).trans (by decide))

/-- Summed over the 42 lines, what is bounded on each line is bounded. -/
theorem sum_gridLines_le (g : Grid) (f : List GridModule → Nat) {n : Nat}
    (h : ∀ cells ∈ gridLines g, f cells ≤ n) : ((gridLines g).map f).sum ≤ 42 * n := by
  have hsum := List.sum_le_card_nsmul ((gridLines g).map f) n (by simpa using h)
  rwa [List.length_map, gridLines_length, smul_eq_mul] at hsum

theorem penaltyScore_lt {c : Config} (h : c.wf = true) (g : Grid) : penaltyScore c g < 2 ^ 32 := by
  have hn1 := sum_gridLines_le g n1Line fun _ hcells => n1Line_le (length_of_mem_gridLines hcells)
  have hn2 := n2_le g
  have hn3 := sum_gridLines_le g (n3Count c) fun cells _ => n3Count_le h cells
  have hn4 := n4_darkCount_le g
  rw [penaltyScore]
  omega

/-! ## PENALTY (R246) -/

theorem complete_iff {g : Grid} : g.complete = true ↔ ∀ r c, r ≤ 20 → c ≤ 20 → g.read r c ≠ .unset := by
  simp only [Grid.complete, allCells, SIZE, List.all_eq_true, List.mem_range, bne_iff_ne, Nat.lt_succ_iff]
  exact ⟨fun h r c hr hc => h r hr c hc, fun h r hr c hc => h r c hr hc⟩

/-- Settles O56: the flags, then the score, which every grid keeps below 2^32. -/
theorem penaltyScoresGrid : Obligations.PenaltyScoresGrid := by
  refine ⟨rfl, fun s he => ⟨fun h => ?_, fun hp hf hwf hset => ⟨?_, penaltyScore_lt hwf s.g⟩⟩⟩
  · exact exec_outOfOrder he nofun (by rcases h with h | h <;> simp [inOrder, needsOne, h])
  · rw [exec, execPenalty, command_inOrder he _ (by simp [hp, hf]), complete_iff.mpr hset, assured_true,
      State.setRes, BitVec.setWidth_eq]

end Sys2Proof.Proofs

/-! # The selection

A trial depends on the grid only through the cells that hold no format information, which it leaves: every trial is
scored as if on the first grid. So the selection folds a running first minimum over the ids. -/

namespace Sys2Proof.Proofs

open Sys2Proof.Machine Sys2Proof.Safety

/-! ## Grids that differ in format cells alone -/

/-- Two grids with the same cells but for the format cells. -/
def SameOffFormat (g g' : Grid) : Prop := ∀ r c, r ≤ 20 → c ≤ 20 → isFormat r c = false → g'.read r c = g.read r c

/-- The cells that hold no format information are the data cells and the drawn cells. -/
theorem sameOffFormat_of {g g' : Grid} (hdata : SameData g g') (hcells : SameCells g g') : SameOffFormat g g' := by
  intro r c hr hc hf
  cases hfun : isFunction r c with
  | false => exact hdata r c hr hc hfun
  | true => exact hcells.pattern hr hc hfun hf

theorem SameOffFormat.trans {g g' g'' : Grid} (h : SameOffFormat g g') (h' : SameOffFormat g' g'') :
    SameOffFormat g g'' := fun r c hr hc hf => (h' r c hr hc hf).trans (h r c hr hc hf)

theorem sameOffFormat_applyMask {g g' : Grid} (h : SameOffFormat g g') (id : BitVec 3) :
    SameOffFormat (applyMask id g) (applyMask id g') := fun r c hr hc hf => by
  rw [read_applyMask id g' hr hc, read_applyMask id g hr hc, h r c hr hc hf]

/-- Writing pairs makes two grids read alike at every cell that a pair names. -/
theorem read_foldl_writePair_congr {f : BitVec 15} {ps : List FormatPair} {g g' : Grid} {r c : Nat}
    (hps : ∀ p ∈ ps, ∀ r c, p.names r c → isFormat r c = true) (hc : c ≤ 20)
    (h : g'.read r c = g.read r c ∨ ∃ p ∈ ps, p.names r c) :
    (ps.foldl (writePair f) g').read r c = (ps.foldl (writePair f) g).read r c := by
  induction ps generalizing g g' with
  | nil => simpa using h
  | cons p ps ih =>
    refine ih (fun q hq => hps q (.tail _ hq)) ?_
    have hread := fun g => read_writePair (f := f) (g := g) (hps p (.head _)) (r := r) hc
    by_cases hp : p.names r c
    · exact .inl (((hread g').1 hp).trans ((hread g).1 hp).symm)
    · refine h.imp (fun hg => by rw [(hread g').2 hp, (hread g).2 hp, hg]) fun ⟨q, hq, hqn⟩ => ⟨q, ?_, hqn⟩
      exact (List.mem_cons.mp hq).resolve_left fun e => hp (e ▸ hqn)

section Selection

variable {cfg : Config} (h : cfg.wf = true) (l : Level)

include h

/-- Format information covers whatever the format cells held (R264, R266). -/
theorem writeFormat_congr (id : BitVec 3) {g g' : Grid} (hg : Memory.wf g = true) (hg' : Memory.wf g' = true)
    (hsame : SameOffFormat g g') : writeFormat cfg l id g' = writeFormat cfg l id g := by
  refine Grid.ext_of_read (writeFormat_wf _ _ _ hg') (writeFormat_wf _ _ _ hg) fun r c hr hc => ?_
  rw [writeFormat_eq_foldl, writeFormat_eq_foldl]
  refine read_foldl_writePair_congr (fun p hp r c hn => (names_formatPairs h).mp ⟨p, hp, hn⟩) hc ?_
  by_cases hf : isFormat r c = true
  · exact .inr ((names_formatPairs h).mpr hf)
  · exact .inl (hsame r c hr hc (Bool.eq_false_iff.mpr hf))

/-- The grid that a trial scores does not depend on the format cells (R247, R250). -/
theorem scored_congr (id : BitVec 3) {g g' : Grid} (hsame : SameOffFormat g g') :
    writeFormat cfg l id (applyMask id g') = writeFormat cfg l id (applyMask id g) :=
  writeFormat_congr h l id (applyMask_wf id g) (applyMask_wf id g') (sameOffFormat_applyMask hsame id)

theorem trial_congr (id : BitVec 3) {g g' : Grid} (hsame : SameOffFormat g g') :
    trial cfg l id g' = trial cfg l id g := by
  rw [trial, trial, scored_congr h l id hsame]

/-- A trial undoes its mask and changes format cells alone (R233, R247). -/
theorem sameOffFormat_trial (id : BitVec 3) (g : Grid) : SameOffFormat g (trial cfg l id g).1 :=
  sameOffFormat_of (sameData_trial h l id g) (sameCells_trial h l id g)

end Selection

/-! ## The running first minimum (R247, R248) -/

/-- The score of mask `id` on the grid with its own format information (R236, R247). -/
def maskScore (cfg : Config) (l : Level) (g : Grid) (id : BitVec 3) : Nat :=
  penaltyScore cfg (writeFormat cfg l id (applyMask id g))

theorem trial_snd (cfg : Config) (l : Level) (id : BitVec 3) (g : Grid) :
    (trial cfg l id g).2 = maskScore cfg l g id := rfl

/-- Among the ids below `n`, the selection holds the first of least score. -/
structure FirstMinimum (score : BitVec 3 → Nat) (n : Nat) (x : Selection) : Prop where
  scored : x.bestpen = score x.best
  below : x.best.toNat < n
  least : ∀ id : BitVec 3, id.toNat < n → x.bestpen ≤ score id
  first : ∀ id : BitVec 3, id.toNat < x.best.toNat → x.bestpen < score id

/-- A first minimum is one whatever grid goes with it. -/
theorem FirstMinimum.withGrid {score : BitVec 3 → Nat} {n : Nat} {x : Selection} (h : FirstMinimum score n x)
    (g : Grid) : FirstMinimum score n { x with g := g } := ⟨h.scored, h.below, h.least, h.first⟩

/-- The first id is the first minimum among the ids below 1. -/
theorem firstMinimum_zero (score : BitVec 3 → Nat) (g : Grid) : FirstMinimum score 1 ⟨g, 0, score 0⟩ where
  scored := rfl
  below := Nat.one_pos
  least id hid := by
    obtain rfl : id = 0 := BitVec.eq_of_toNat_eq (Nat.lt_one_iff.mp hid)
    exact le_rfl
  first id hid := absurd hid (Nat.not_lt_zero _)

section Selection

variable {cfg : Config} (h : cfg.wf = true) (l : Level) {g : Grid}

include h

/-- A trial of the next id keeps the first minimum: a lower score is lower than all before it, and an equal one does
not displace the first (R248). -/
theorem FirstMinimum.step {x : Selection} {n : Nat} (hx : FirstMinimum (maskScore cfg l g) n x)
    (hsame : SameOffFormat g x.g) {id : BitVec 3} (hid : id.toNat = n) :
    FirstMinimum (maskScore cfg l g) (n + 1) (selectStep cfg l x id) := by
  have hnext : ∀ j : BitVec 3, j.toNat < n + 1 → j.toNat < n ∨ j = id := fun j hj =>
    (Nat.lt_succ_iff_lt_or_eq.mp hj).imp_right fun e => BitVec.eq_of_toNat_eq (e.trans hid.symm)
  simp only [selectStep, trial_congr h l id hsame, trial_snd]
  split
  next hlt =>
    refine ⟨rfl, hid.trans_lt n.lt_succ_self, fun j hj => ?_, fun j hj => ?_⟩
    · rcases hnext j hj with hj | rfl
      · exact (hlt.trans_le (hx.least j hj)).le
      · exact le_rfl
    · exact hlt.trans_le (hx.least j (hj.trans_eq hid))
  next hge =>
    refine ⟨hx.scored, hx.below.trans n.lt_succ_self, fun j hj => ?_, hx.first⟩
    rcases hnext j hj with hj | rfl
    · exact hx.least j hj
    · exact Nat.le_of_not_lt hge

/-- Trials of consecutive ids extend the first minimum over them. -/
theorem FirstMinimum.foldl {ids : List (BitVec 3)} {x : Selection} {n : Nat}
    (hx : FirstMinimum (maskScore cfg l g) n x) (hsame : SameOffFormat g x.g)
    (hids : ids.map BitVec.toNat = List.range' n ids.length) :
    FirstMinimum (maskScore cfg l g) (n + ids.length) (ids.foldl (selectStep cfg l) x) := by
  induction ids generalizing x n with
  | nil => exact hx
  | cons id ids ih =>
    obtain ⟨hid, hrest⟩ := List.cons.inj hids
    have hg : SameOffFormat g (selectStep cfg l x id).g := by
      rw [selectStep_g]
      exact hsame.trans (sameOffFormat_trial h l id x.g)
    rw [List.length_cons, Nat.add_comm ids.length, ← Nat.add_assoc]
    exact ih (hx.step h l hsame hid) hg hrest

/-- The eight trials find the first id of least score (R247, R248). -/
theorem firstMinimum_trials (g : Grid) : FirstMinimum (maskScore cfg l g) 8 (trials cfg l g) :=
  (firstMinimum_zero (maskScore cfg l g) (trial cfg l 0 g).1).foldl h l (sameOffFormat_trial h l 0 g)
    (ids := [1, 2, 3, 4, 5, 6, 7]) (by decide)

theorem firstMinimum_select (g : Grid) : FirstMinimum (maskScore cfg l g) 8 (select cfg l g) :=
  (firstMinimum_trials h l g).withGrid _

theorem sameOffFormat_trials (g : Grid) : SameOffFormat g (trials cfg l g).g :=
  sameOffFormat_of (sameData_trials h l g) ((sameCells_trial h l 0 g).trans
    (sameCells_foldl_selectStep h l [1, 2, 3, 4, 5, 6, 7] ⟨(trial cfg l 0 g).1, 0, (trial cfg l 0 g).2⟩))

/-- The final grid is the winner's trial on the first grid (R247, R250). -/
theorem select_g_eq (g : Grid) :
    (select cfg l g).g = writeFormat cfg l (select cfg l g).best (applyMask (select cfg l g).best g) := by
  obtain ⟨hbest, hg⟩ := select_eq (cfg := cfg) l g
  rw [hbest, hg, scored_congr h l _ (sameOffFormat_trials h l g)]

/-- The selection does not depend on the format cells: its first trial covers them (R250). -/
theorem select_congr {g' : Grid} (hsame : SameOffFormat g g') : select cfg l g' = select cfg l g := by
  rw [select, select, trials, trials, trial_congr h l 0 hsame]

end Selection

/-- Settles O60: the running first minimum after eight trials, and the winner's trial. -/
theorem selectionIsFirstMinimum : Obligations.SelectionIsFirstMinimum := by
  intro c l g hwf _
  have hmin := firstMinimum_select hwf l g
  refine ⟨fun id => hmin.least id id.isLt, hmin.first, ?_, select_g_eq hwf l g, fun g' hsame => ?_⟩
  · rw [select_g_eq hwf l g]
    exact hmin.scored
  · exact select_congr hwf l hsame

/-! ## MASKSEL (R249) -/

theorem exec_masksel {s : State} {l : Level} (he : s.err = 0) (hp : s.flag .plv = true) (hv : s.flag .lvlv = true)
    (hm : s.mskpar = 0) (hd : s.flag .done = false) (hl : s.level = some l)
    (hset : (writeFormat s.cfg l 0 s.g).complete = true) :
    exec .masksel s = .next ((({ s with
      g := (select s.cfg l s.g).g, best := some (select s.cfg l s.g).best,
      bestpen := some (BitVec.ofNat 32 (select s.cfg l s.g).bestpen),
      mskpar := 1#8 <<< (select s.cfg l s.g).best.toNat }.setFlag .fmtv).setFlag .done).setRes
      (select s.cfg l s.g).best) := by
  rw [exec, execMasksel, command_inOrder he _ (by simp [hp, hv, hm, hd]), reading_of_eq_some hl, hset, assured_true]

section Complete

variable {cfg : Config} (h : cfg.wf = true) (l : Level) {g : Grid}
  (hset : ∀ r c, r ≤ 20 → c ≤ 20 → isFormat r c = true ∨ g.read r c ≠ .unset)

include h hset

/-- Format information sets the cells that alone may be Unset (R266). -/
theorem complete_writeFormat (id : BitVec 3) : (writeFormat cfg l id g).complete = true := by
  refine complete_iff.mpr fun r c hr hc => ?_
  cases hf : isFormat r c with
  | true => exact read_writeFormat_of_format h l id g hf
  | false =>
    rw [read_writeFormat_of_not_format h l id g hc hf]
    exact (hset r c hr hc).resolve_left (by simp [hf])

/-- The selection sets the format cells and unsets no other (R249). -/
theorem complete_select : (select cfg l g).g.complete = true := by
  refine complete_iff.mpr fun r c hr hc => ?_
  cases hf : isFormat r c with
  | true => exact read_select_of_format h l g hf
  | false =>
    have hold : g.read r c ≠ .unset := (hset r c hr hc).resolve_left (by simp [hf])
    have hsame := sameCells_select h l g
    cases hfun : isFunction r c with
    | true => rwa [hsame.pattern hr hc hfun hf]
    | false => exact mt (hsame.data hr hc hfun).mp hold

end Complete

/-- Settles O59: the flags and MSKPAR, then the grid that the format information completes, and the selection. -/
theorem maskselFinishesSymbol : Obligations.MaskselFinishesSymbol := by
  refine ⟨rfl, fun s he => ⟨fun h => ?_, fun l hp hv hm hd hl hwf hset => ⟨?_, ?_⟩⟩⟩
  · exact exec_outOfOrder he nofun
      (by rcases h with h | h | (h : ¬ s.mskpar = 0#8) | h <;> simp [inOrder, needsOne, needsZero, needsState, h])
  · have hflags : statusWith (statusWith s.status .fmtv) .done = s.status ||| 0x0600 := BitVec.or_assoc _ _ _
    rw [exec_masksel he hp hv hm hd hl (complete_writeFormat hwf l hset 0), ← hflags]
    rfl
  · exact complete_iff.mp (complete_select hwf l hset)

end Sys2Proof.Proofs

/-! # The format information

A format cell stands at one place of one copy (R10), so every pair that writes it carries the same bit, and the cell
ends in that bit's colour. -/

namespace Sys2Proof.Proofs

open Sys2Proof.Machine Sys2Proof.Safety

/-- The coordinates of CFG.FMTPOS are distinct within each copy and across the two (R10). -/
theorem fmtPos_nodup {c : Config} (h : c.wf = true) : (c.fmtPosA ++ c.fmtPosB).Nodup := by
  obtain ⟨-, -, hf, -⟩ := checks_of_wf h
  simp only [Config.fmtPosWf, Bool.and_eq_true, decide_eq_true_eq] at hf
  exact hf.2

/-- The pair of number k is made of entry k of each copy (R263). -/
theorem mem_formatPairs {c : Config} {p : FormatPair} :
    p ∈ formatPairs c ↔ c.fmtPosA[p.2]? = some p.1.1 ∧ c.fmtPosB[p.2]? = some p.1.2 := by
  rw [formatPairs, List.mem_zipIdx_iff_getElem?, List.getElem?_zip_eq_some]

/-- An entry stands at one index of a list without repetition. -/
theorem index_unique {α : Type} {xs : List α} (hxs : xs.Nodup) {i j : Nat} {a : α} (hi : xs[i]? = some a)
    (hj : xs[j]? = some a) : i = j :=
  (List.getElem?_inj (List.getElem?_eq_some_iff.mp hi).1 hxs).mp (hi.trans hj.symm)

/-- Writing pairs gives a cell the colour `m` when some pair names it and every pair that names it carries `m`. -/
theorem read_foldl_writePair_of_names {f : BitVec 15} {ps : List FormatPair} {g : Grid} {r c : Nat} {m : GridModule}
    (hps : ∀ p ∈ ps, ∀ r c, p.names r c → isFormat r c = true) (hc : c ≤ 20)
    (hm : ∀ p ∈ ps, p.names r c → colourOf (formatBit f p.2) = m)
    (hset : g.read r c = m ∨ ∃ p ∈ ps, p.names r c) : (ps.foldl (writePair f) g).read r c = m := by
  induction ps generalizing g with
  | nil => simpa using hset
  | cons p ps ih =>
    refine ih (fun q hq => hps q (.tail _ hq)) (fun q hq => hm q (.tail _ hq)) ?_
    obtain ⟨hwritten, hkept⟩ := read_writePair (f := f) (g := g) (hps p (.head _)) (r := r) hc
    by_cases hp : p.names r c
    · exact .inl ((hwritten hp).trans (hm p (.head _) hp))
    · refine hset.imp (hkept hp).trans fun ⟨q, hq, hqn⟩ => ⟨q, ?_, hqn⟩
      exact (List.mem_cons.mp hq).resolve_left fun e => hp (e ▸ hqn)

section FormatCells

variable {cfg : Config} (h : cfg.wf = true) {k r c : Nat}
  (hk : cfg.fmtPosA[k]? = some (r, c) ∨ cfg.fmtPosB[k]? = some (r, c))

include h hk

theorem isFormat_of_fmtPos : isFormat r c = true :=
  (mem_fmtPos h (p := (r, c))).mp (List.mem_append.mpr (hk.imp List.mem_of_getElem? List.mem_of_getElem?))

/-- The pair that names entry k of a copy has the number k. -/
theorem number_of_names {p : FormatPair} (hp : p ∈ formatPairs cfg) (hn : p.names r c) : p.2 = k := by
  obtain ⟨hA, hB, hAB⟩ := List.nodup_append'.mp (fmtPos_nodup h)
  obtain ⟨hpA, hpB⟩ := mem_formatPairs.mp hp
  have hp : cfg.fmtPosA[p.2]? = some (r, c) ∨ cfg.fmtPosB[p.2]? = some (r, c) :=
    hn.imp (fun e : (r, c) = p.1.1 => e ▸ hpA) (fun e : (r, c) = p.1.2 => e ▸ hpB)
  rcases hp with hp | hp <;> rcases hk with hk | hk
  · exact index_unique hA hp hk
  · exact (hAB (List.mem_of_getElem? hp) (List.mem_of_getElem? hk)).elim
  · exact (hAB (List.mem_of_getElem? hk) (List.mem_of_getElem? hp)).elim
  · exact index_unique hB hp hk

/-- `write_format` puts bit k of the string at entry k of each copy (R261, R264). -/
theorem read_writeFormat_of_fmtPos (l : Level) (id : BitVec 3) (g : Grid) :
    (writeFormat cfg l id g).read r c = colourOf (formatBit (formatString cfg l id) k) := by
  have hf := isFormat_of_fmtPos h hk
  rw [writeFormat_eq_foldl]
  refine read_foldl_writePair_of_names (fun p hp r c hn => (names_formatPairs h).mp ⟨p, hp, hn⟩)
    (bounds_of_isFormat hf).2 (fun p hp hn => ?_) (.inr ((names_formatPairs h).mpr hf))
  rw [number_of_names h hk hp hn]

end FormatCells

/-! ## FMTWR (R265) -/

theorem exec_fmtwr {s : State} {l : Level} (he : s.err = 0) (hp : s.flag .plv = true) (hv : s.flag .lvlv = true)
    (hd : s.flag .done = false) (hl : s.level = some l) (id : BitVec 3) :
    exec (.fmtwr id) s = .next ({ s with g := writeFormat s.cfg l id s.g }.setFlag .fmtv) := by
  rw [exec, execFmtwr, command_inOrder he _ (by simp [hp, hv, hd]), reading_of_eq_some hl]

/-- Settles O55: the flags, then the bits at both copies and the cells that are in neither. -/
theorem fmtwrWritesBothCopies : Obligations.FmtwrWritesBothCopies := by
  refine ⟨encodeM3_eq_add 0x58, fun s id he => ⟨fun h => ?_, fun l hp hv hd hl hwf => ?_⟩⟩
  · exact exec_outOfOrder he nofun (by rcases h with h | h | h <;> simp [inOrder, needsOne, needsZero, h])
  · refine ⟨_, exec_fmtwr he hp hv hd hl id, rfl, fun k p _ hk => ?_, fun r c _ hc hf => ?_⟩
    · exact read_writeFormat_of_fmtPos hwf hk l id s.g
    · exact read_writeFormat_of_not_format hwf l id s.g hc hf

end Sys2Proof.Proofs

/-! # Errors and the fault state

`Answer s i r` says what a command may answer: a next state that keeps ERR, an error that one listed cause calls for,
or a fault in a state outside the invariants. One rule per shared operation; `exec_answers` puts them
together for each command, and the error tables of R271 to R274 and the progress of every step follow from it. -/

namespace Sys2Proof.Proofs

open Sys2Proof.Machine Sys2Proof.Safety

/-! ## Causes of errors (R271 to R274) -/

/-- Why command `i` raises an error in state `s`: its Requires line or one of its Checks fails. -/
inductive Cause (s : State) : Instr → ErrorKind → Prop
  | outOfOrder {i : Instr} (h : inOrder i s = false) : Cause s i .sequenceError
  | token {tok : Byte} (h : levelOfToken tok = none) : Cause s (.setlvl tok) .invalidLevelError
  | codePoint {cp : CodePoint} (h : ¬ cp.toNat ≤ s.cfg.cpMax) : Cause s (.msgch cp) .operandRange
  | messageFull {cp : CodePoint} (h : ¬ s.msglen.toNat < s.cfg.msgMax) : Cause s (.msgch cp) .bufferOverflow
  | dataFull {b : Byte} (h : ¬ s.dlen.toNat < DCWMAX) : Cause s (.dcwpush b) .bufferOverflow
  | dataIndex {k : Byte} (h : ¬ k.toNat < s.dlen.toNat) : Cause s (.rddcw k) .operandRange
  | ecIndex {k : Byte} (h : ¬ k.toNat < s.elen.toNat) : Cause s (.rdecw k) .operandRange
  | generatorIndex {k : Byte} {n : BitVec 5} (hn : s.gendeg = some n) (h : ¬ k.toNat ≤ n.toNat) :
      Cause s (.rdgen k) .operandRange
  | bitIndex {k : Byte} {n : BitVec 8} (hn : s.bitlen = some n) (h : ¬ k.toNat < n.toNat) :
      Cause s (.rdbit k) .operandRange
  | cell {r c : BitVec 5} (h : inGrid r.toNat c.toNat = false) : Cause s (.rdcell r c) .operandRange
  | functionCell {r c : BitVec 5} (h : inGrid r.toNat c.toNat = false) : Cause s (.rdfunc r c) .operandRange
  | logarithm {v : Byte} (h : logRom s.cfg.log1 v = none) : Cause s (.gflog v) .logZero
  | degree {n : Byte} (h : (1 ≤ n.toNat && n.toNat ≤ 25) = false) : Cause s (.rsgen n) .operandRange
  | codewordCount {n : BitVec 5} (hn : s.gendeg = some n) (h : ¬ s.dlen.toNat + n.toNat ≤ TOTALCW) :
      Cause s .rsenc .operandRange
  | characters {msg : List CodePoint} (hmsg : entries s.msg s.msglen.toNat = some msg)
      (h : (detectMode s.cfg msg == .alphanumeric || checkBytes msg) = false) :
      Cause s .bsmode .unsupportedCharacterError
  | capacity {m : Mode} {l : Level} (hm : s.mode = some m) (hl : s.level = some l)
      (h : ¬ requiredBits m s.msglen.toNat ≤ capBits s.cfg l) : Cause s .bschk .capacityExceededError

/-- What command `i` may answer in state `s`. No refusal is among it: every command is modelled. -/
inductive Answer (s : State) (i : Instr) : Result → Prop
  | kept {t : State} (h : t.err = s.err) : Answer s i (.next t)
  | raised {e : ErrorKind} (h : Cause s i e) : Answer s i (.next (s.raise e (encode i)))
  | fault {f : Fault} (h : ¬ Parts s) : Answer s i (.fault f)

section Answers

variable {s : State} {i : Instr}

/-- An answer that changes ERR has raised. -/
theorem Answer.exists_cause {t : State} (h : Answer s i (.next t)) (ht : t.err ≠ s.err) :
    ∃ e, Cause s i e ∧ t = s.raise e (encode i) := by
  cases h with
  | kept hkept => exact absurd hkept ht
  | raised hcause => exact ⟨_, hcause, rfl⟩

/-- Under the invariants an answer is a next state. -/
theorem Answer.completes {r : Result} (h : Answer s i r) (hs : Parts s) : ∃ t, r = .next t := by
  cases h with
  | kept | raised => exact ⟨_, rfl⟩
  | fault hno => exact absurd hs hno

end Answers

/-! ## One rule per shared operation (R100) -/

section Rules

variable {s : State} {i : Instr} {k : Result} {α : Type} {o : Option α}

theorem Answer.command {req : List Bool} {k : Word → Result}
    (hk : inOrder i s = true → Answer s i (k (encode i)))
    (hreq : inOrder i s = req.all id := by simp [inOrder, needsOne, needsZero, needsState] <;> ac_rfl) :
    Answer s i (command i req s k) := by
  by_cases he : s.err = 0
  · cases ho : inOrder i s with
    | false => exact command_outOfOrder he i (hreq.symm.trans ho) k ▸ .raised (.outOfOrder ho)
    | true => exact command_inOrder he i (hreq.symm.trans ho) k ▸ hk ho
  · exact command_ignored he i req k ▸ .kept rfl

theorem Answer.check {ok : Bool} {e : ErrorKind} (hfail : ok = false → Cause s i e)
    (hk : ok = true → Answer s i k) : Answer s i (check ok e (encode i) s k) := by
  cases ok with
  | false => exact .raised (hfail rfl)
  | true => exact hk rfl

theorem Answer.checkSome {e : ErrorKind} {k : α → Result} (hfail : o = none → Cause s i e)
    (hk : ∀ a, Answer s i (k a)) : Answer s i (checkSome o e (encode i) s k) := by
  cases o with
  | none => exact .raised (hfail rfl)
  | some a => exact hk a

theorem Answer.reading {f : Fault} {k : α → Result} (hsome : Parts s → o.isSome = true)
    (hk : ∀ a, o = some a → Answer s i (k a)) : Answer s i (reading o f k) := by
  cases o with
  | none => exact .fault fun hs => absurd (hsome hs) (by simp)
  | some a => exact hk a rfl

theorem Answer.assured {ok : Bool} {f : Fault} (hok : Parts s → ok = true) (hk : Answer s i k) :
    Answer s i (assured ok f k) := by
  cases ok with
  | false => exact .fault fun hs => absurd (hok hs) (by simp)
  | true => exact hk

end Rules

/-! ## What the invariants assure (R42) -/

theorem entries_isSome {α : Type} {buf : List α} {len : Nat} (h : buf.length = len) :
    (entries buf len).isSome = true := by
  rw [entries_of_length h, Option.isSome_some]

/-- A message is assembled in its own mode (R161, R169). -/
theorem assemble_detectMode_isSome (c : Config) (msg : List CodePoint) :
    (assemble c (detectMode c msg) msg).isSome = true := by
  cases hmode : detectMode c msg with
  | byte => rfl
  | alphanumeric =>
    obtain ⟨tail, htail⟩ := payloadAlnum_exists fun cp hcp =>
      alnumValue_isSome_iff.mpr (detectMode_eq_alphanumeric_iff.mp hmode cp hcp)
    rw [assemble, htail, Option.map_some, Option.isSome_some]

section Assured

variable {s : State} (hs : Parts s)

include hs

theorem Parts.level_isSome (hl : s.flag .lvlv = true) : s.level.isSome = true := hs.message.levelHeld.trans hl

theorem Parts.mode_isSome (hm : s.flag .modev = true) : s.mode.isSome = true := hs.message.modeHeld.trans hm

theorem Parts.reqbits_isSome (hc : s.flag .chkv = true) : s.reqbits.isSome = true := hs.message.reqbitsHeld.trans hc

theorem Parts.bitlen_isSome (ha : s.flag .asmv = true) : s.bitlen.isSome = true := hs.message.bitlenHeld.trans ha

theorem Parts.gendeg_isSome (hg : s.flag .genv = true) : s.gendeg.isSome = true := hs.codeword.genHeld.1.trans hg

theorem Parts.gen_isSome (hg : s.flag .genv = true) : s.gen.isSome = true := hs.codeword.genHeld.2.trans hg

theorem Parts.cursor_isSome (hz : s.zst = .run) : s.cursor.isSome = true :=
  hs.grid.cursorHeld.trans (congrArg (· != ZState.idle) hz)

theorem Parts.msg_length : s.msg.length = s.msglen.toNat := hs.message.msgLength

theorem Parts.bits_length {n : BitVec 8} (hn : s.bitlen = some n) : s.bits.length = n.toNat :=
  hs.message.bitsLength n hn

theorem Parts.dcw_length : s.dcw.length = s.dlen.toNat := hs.codeword.dcwLength

theorem Parts.ecw_length : s.ecw.length = s.elen.toNat := hs.codeword.ecwLength

/-- The generator polynomial has one coefficient more than its degree (R37, R146). -/
theorem Parts.gen_length {n : BitVec 5} {gen : List Byte} (hn : s.gendeg = some n) (hgen : s.gen = some gen) :
    gen.length = n.toNat + 1 := by
  obtain ⟨-, -, hvalue⟩ := hs.codeword.genValue n hn
  rw [Option.some.inj (hgen.symm.trans hvalue), rsGen_length]

theorem Parts.lvlv_of_modev (hm : s.flag .modev = true) : s.flag .lvlv = true := (hs.message.modeHasLevel hm).1

theorem Parts.modev_of_chkv (hc : s.flag .chkv = true) : s.flag .modev = true := hs.message.checkedHasMode hc

theorem Parts.lvlv_of_asmv (ha : s.flag .asmv = true) : s.flag .lvlv = true :=
  hs.lvlv_of_modev (hs.modev_of_chkv (hs.message.assembledChecked ha))

/-- BSASM finds a message that its mode can hold (R176). -/
theorem Parts.assemble_isSome {m : Mode} {msg : List CodePoint} (hm : s.mode = some m)
    (hmsg : entries s.msg s.msglen.toNat = some msg) : (assemble s.cfg m msg).isSome = true := by
  obtain ⟨rfl, -⟩ := hs.message.modeValue m hm
  obtain rfl : s.msg = msg := Option.some.inj ((entries_of_length hs.msg_length).symm.trans hmsg)
  exact assemble_detectMode_isSome s.cfg s.msg

/-- After placement only a format cell can be Unset (R42 item 12). -/
theorem Parts.format_or_set (hp : s.flag .plv = true) (r c : Nat) (hr : r ≤ 20) (hc : c ≤ 20) :
    isFormat r c = true ∨ s.g.read r c ≠ .unset := by
  cases hf : isFormat r c with
  | true => exact .inl rfl
  | false => exact .inr (hs.grid.set_of_placed hp hr hc hf)

/-- PENALTY finds no Unset cell (R42 item 13, R246). -/
theorem Parts.complete_of_formatted (hp : s.flag .plv = true) (hf : s.flag .fmtv = true) : s.g.complete = true := by
  obtain ⟨-, -, -, hset⟩ := invariantGivesTabledItems s hs.inv
  exact complete_iff.mpr (hset hp hf)

end Assured

/-! ## What a command answers -/

/-- ZZSTEP and ZZRUN find a cursor on its path, and the codewords (R210, R211). -/
theorem Answer.moveWriter {s : State} {i : Instr} (hz : s.zst = .run) (move : List Bool → Walk → Walk) :
    Answer s i (moveWriter s move) :=
  .reading (·.cursor_isSome hz) fun cur hcur =>
  .assured (fun hs => (hs.grid.cursorRun hz cur hcur).1) <|
  .reading (fun hs => entries_isSome hs.dcw_length) fun _ _ =>
  .reading (fun hs => entries_isSome hs.ecw_length) fun _ _ =>
  .kept (State.withWalk_err _ _)

/-- Every command answers a next state, or faults outside the invariants; it raises only for a listed cause. -/
theorem exec_answers {i : Instr} {s : State} (hi : i ≠ .newreq) : Answer s i (exec i s) := by
  unfold exec
  cases i with
  | newreq => exact absurd rfl hi
  | setlvl tok => exact .command fun _ => .checkSome .token fun _ => .kept rfl
  | msgch cp =>
    exact .command fun _ => .check (fun h => .codePoint (of_decide_eq_false h)) fun _ =>
      .check (fun h => .messageFull (of_decide_eq_false h)) fun _ => .kept rfl
  | dcwpush b => exact .command fun _ => .check (fun h => .dataFull (of_decide_eq_false h)) fun _ => .kept rfl
  | rddcw k =>
    exact .command fun _ => .check (fun h => .dataIndex (of_decide_eq_false h)) fun hk =>
      .reading (fun hs => by simpa [hs.dcw_length] using hk) fun _ _ => .kept rfl
  | rdecw k =>
    exact .command fun _ => .check (fun h => .ecIndex (of_decide_eq_false h)) fun hk =>
      .reading (fun hs => by simpa [hs.ecw_length] using hk) fun _ _ => .kept rfl
  | rdgen k =>
    exact .command fun ho => .reading (·.gendeg_isSome (flag_of_inOrder ho .genv)) fun n hn =>
      .check (fun h => .generatorIndex hn (of_decide_eq_false h)) fun hk =>
      .reading (·.gen_isSome (flag_of_inOrder ho .genv)) fun gen hgen =>
      .reading (fun hs => by simpa [hs.gen_length hn hgen, Nat.lt_succ_iff] using hk) fun _ _ => .kept rfl
  | rdbit k =>
    exact .command fun ho => .reading (·.bitlen_isSome (flag_of_inOrder ho .asmv)) fun n hn =>
      .check (fun h => .bitIndex hn (of_decide_eq_false h)) fun hk =>
      .reading (fun hs => by simpa [hs.bits_length hn] using hk) fun _ _ => .kept rfl
  | rdcell r c => exact .command fun _ => .check .cell fun _ => .kept rfl
  | rdfunc r c => exact .command fun _ => .check .functionCell fun _ => .kept rfl
  | gfexp | gfadd | gfmul | fplace | zzinit | maskap => exact .command fun _ => .kept rfl
  | gflog v => exact .command fun _ => .checkSome .logarithm fun _ => .kept rfl
  | rsgen n => exact .command fun _ => .check .degree fun _ => .kept rfl
  | rsgenl => exact .command fun ho => .reading (·.level_isSome (flag_of_inOrder ho .lvlv)) fun _ _ => .kept rfl
  | rsenc =>
    exact .command fun ho => .reading (·.gendeg_isSome (flag_of_inOrder ho .genv)) fun n hn =>
      .check (fun h => .codewordCount hn (of_decide_eq_false h)) fun _ =>
      .reading (fun hs => entries_isSome hs.dcw_length) fun _ _ =>
      .reading (·.gen_isSome (flag_of_inOrder ho .genv)) fun gen hgen =>
      .reading (fun hs => entries_isSome (hs.gen_length hn hgen)) fun _ _ => .kept rfl
  | bsmode =>
    exact .command fun _ => .reading (fun hs => entries_isSome hs.msg_length) fun msg hmsg =>
      .check (.characters hmsg) fun _ => .kept rfl
  | bschk =>
    exact .command fun ho => .reading (·.mode_isSome (flag_of_inOrder ho .modev)) fun m hm =>
      .reading (fun hs => hs.level_isSome (hs.lvlv_of_modev (flag_of_inOrder ho .modev))) fun l hl =>
      .check (fun h => .capacity hm hl (of_decide_eq_false h)) fun _ => .kept rfl
  | bsasm =>
    exact .command fun ho =>
      .reading (fun hs => hs.mode_isSome (hs.modev_of_chkv (flag_of_inOrder ho .chkv))) fun m hm =>
      .reading (·.reqbits_isSome (flag_of_inOrder ho .chkv)) fun _ _ =>
      .reading (fun hs => entries_isSome hs.msg_length) fun msg hmsg =>
      .reading (·.assemble_isSome hm hmsg) fun _ _ => .kept rfl
  | bspad =>
    exact .command fun ho =>
      .reading (fun hs => hs.level_isSome (hs.lvlv_of_asmv (flag_of_inOrder ho .asmv))) fun _ _ =>
      .reading (·.bitlen_isSome (flag_of_inOrder ho .asmv)) fun n hn =>
      .reading (fun hs => entries_isSome (hs.bits_length hn)) fun _ _ => .kept rfl
  | zzstep | zzrun => exact .command fun ho => .moveWriter (eq_of_beq (needsState_of_inOrder ho :)) _
  | penalty =>
    exact .command fun ho => .assured
      (·.complete_of_formatted (flag_of_inOrder ho .plv) (flag_of_inOrder ho .fmtv)) (.kept rfl)
  | masksel =>
    exact .command fun ho => .reading (·.level_isSome (flag_of_inOrder ho .lvlv)) fun l _ => .assured
      (fun hs => complete_writeFormat hs.cfgWf l (hs.format_or_set (flag_of_inOrder ho .plv)) 0) (.kept (by simp))
  | fmtwr => exact .command fun ho => .reading (·.level_isSome (flag_of_inOrder ho .lvlv)) fun _ _ => .kept rfl

/-- A command that leaves ERR other than 0 raised an error that has its cause (R274, R275). -/
theorem raised_of_exec {i : Instr} {s t : State} (he : s.err = 0) (h : exec i s = .next t) (ht : t.err ≠ 0) :
    ∃ e, Cause s i e ∧ t = s.raise e (encode i) := by
  have hi : i ≠ .newreq := by rintro rfl; exact ht (execNewreq_next h ▸ rfl)
  exact (h ▸ exec_answers hi : Answer s i (.next t)).exists_cause (he.symm ▸ ht)

/-- Settles O9: what changed ERR is a raise. -/
theorem raisingWritesThreeRegisters : Obligations.RaisingWritesThreeRegisters := by
  intro i s t he h ht
  obtain ⟨e, -, rfl⟩ := raised_of_exec he h ht
  exact State.raise_eq_raised s e (encode i)

/-- Settles O10: of all causes, only being out of order raises SequenceError. -/
theorem sequenceErrorExactlyOutOfOrder : Obligations.SequenceErrorExactlyOutOfOrder := by
  refine fun i s he hi => ⟨exec_outOfOrder he hi, fun ho t h ht => ?_⟩
  obtain ⟨e, hcause, rfl⟩ := raised_of_exec he h (by rw [ht]; decide)
  cases hcause with
  | outOfOrder hno => exact absurd (ho.symm.trans hno) nofun
  | _ => nomatch ht

/-- Settles O11: each cause raises an error of its command's row. -/
theorem onlyListedErrorsRaised : Obligations.OnlyListedErrorsRaised := by
  refine fun i s t he h => or_iff_not_imp_left.mpr fun ht => ?_
  obtain ⟨e, hcause, rfl⟩ := raised_of_exec he h ht
  cases hcause with
  | outOfOrder hno => exact sequenceError_mem_mayRaise hno (by rintro rfl; nomatch hno)
  | _ => simp [mayRaise, ErrorKind.code]

/-! ## The three errors of the source (R271 to R273) -/

/-- Only the four tokens name a level (R102). -/
theorem levelOfToken_eq_none_iff {tok : Byte} :
    levelOfToken tok = none ↔ tok ≠ 0x4C ∧ tok ≠ 0x4D ∧ tok ≠ 0x51 ∧ tok ≠ 0x48 := by
  unfold levelOfToken
  split_ifs <;> simp_all

/-- Characters that neither mode holds: the mode is Byte and a code point is above 255 (R161, R162). -/
theorem unsupported_iff {c : Config} {msg : List CodePoint} :
    (detectMode c msg == .alphanumeric || checkBytes msg) = false ↔
      detectMode c msg = .byte ∧ ∃ cp ∈ msg, 255 < cp.toNat := by
  have hmode : (detectMode c msg == .alphanumeric) = false ↔ detectMode c msg = .byte := by
    cases detectMode c msg <;> decide
  rw [Bool.or_eq_false_iff, hmode, ← Bool.not_eq_true, checkBytes_iff]
  simp

/-- Settles O12: each of the three codes has one cause. -/
theorem sourceErrorsHaveOneCause : Obligations.SourceErrorsHaveOneCause := by
  intro i s t he h
  by_cases ht : t.err = 0
  · rw [ht]; exact ⟨nofun, nofun, nofun⟩
  obtain ⟨e, hcause, rfl⟩ := raised_of_exec he h ht
  cases hcause with
  | @token tok hnone => exact ⟨fun _ => ⟨tok, rfl, levelOfToken_eq_none_iff.mp hnone⟩, nofun, nofun⟩
  | characters hmsg hno => exact ⟨nofun, fun _ => ⟨rfl, _, hmsg, unsupported_iff.mp hno⟩, nofun⟩
  | capacity hm hl hcap => exact ⟨nofun, nofun, fun _ => ⟨rfl, _, _, hm, hl, Nat.not_le.mp hcap⟩⟩
  | _ => exact ⟨nofun, nofun, nofun⟩

/-! ## The fault state (R277) -/

/-- Only 0x01000000 is NEWREQ (R83). -/
theorem eq_of_decode_newreq {w : Word} (h : decode w = some .newreq) : w = 0x01000000 :=
  (encodeInvertsDecode w .newreq h).symm

/-- Settles O8: the gate is shut for a legal word that is not NEWREQ's, and for an illegal word. -/
theorem faultStateIgnoresEverything : Obligations.FaultStateIgnoresEverything := by
  intro s w rest hin herr hw
  have herr' : { s with inbox := rest }.err ≠ 0 := herr
  cases hdec : decode w with
  | some i =>
    rw [stepPerformsDecodedCommand s w rest i hin hdec]
    exact exec_ignored herr' (by rintro rfl; exact hw (eq_of_decode_newreq hdec))
  | none =>
    simp only [step, takeInput_command hin, hdec]
    exact gate_shut herr' _

/-! ## No step stops (R270, R309) -/

/-- Under the invariants every command answers a next state. -/
theorem exec_completes (i : Instr) {s : State} (hs : Parts s) : ∃ t, exec i s = .next t := by
  by_cases hi : i = .newreq
  · exact ⟨s.restart, hi ▸ rfl⟩
  · exact (exec_answers hi).completes hs

/-- An illegal word is ignored or raises (R85, R277). -/
theorem illegalCommand_completes (w : Word) (s : State) : ∃ t, illegalCommand w s = .next t := by
  by_cases he : s.err = 0
  · exact ⟨_, gate_open he _⟩
  · exact ⟨s, gate_shut he _⟩

/-- Settles O22: the idle step, a reset and an illegal word stop nowhere, and a command finds the invariants. -/
theorem stepNeverStops : Obligations.StepNeverStops := by
  intro s hs
  match hin : s.inbox with
  | [] => exact ⟨s, resetAndIdleSteps.2 s hin⟩
  | .rst :: rest => exact ⟨_, resetAndIdleSteps.1 s rest hin⟩
  | .command w :: rest =>
    cases hdec : decode w with
    | some i =>
      rw [stepPerformsDecodedCommand s w rest i hin hdec]
      exact exec_completes i ((Parts.of_inv hs).setInbox rest)
    | none =>
      simp only [step, takeInput_command hin, hdec]
      exact illegalCommand_completes w _

end Sys2Proof.Proofs

/-! # The finished symbol

A symbol with EC codewords has its data codewords either from a message, whose stages are all over, or from DCWPUSH,
which shuts the message's stages out for good. With the flags that DONE brings, every writer is then out of order. -/

namespace Sys2Proof.Proofs

open Sys2Proof.Machine Sys2Proof.Safety

section Finished

variable {s t : State} {i : Instr}

/-- A command that needs a flag to be 1 is out of order while it is 0 (R304). -/
theorem not_inOrder_of_not_flag {f : Flag} (hf : s.flag f = false) (hn : f ∈ needsOne i := by simp [needsOne]) :
    inOrder i s ≠ true := fun ho => by simp [flag_of_inOrder ho f hn] at hf

variable (hs : Parts s)

include hs

/-- Once the data codewords are there, the message's stages are all over (R177), or there is no message (R104). -/
theorem Parts.padded_or_pushed (hd : s.flag .dcwv = true) :
    (s.flag .modev = true ∧ s.flag .chkv = true ∧ s.flag .asmv = true ∧ s.flag .padv = true) ∨
    (s.flag .raw = true ∧ s.flag .modev = false ∧ s.flag .chkv = false ∧ s.flag .asmv = false) := by
  obtain ⟨hpad | hraw, -⟩ := hs.codeword.dataFrom hd
  · have hasm : s.flag .asmv = true := hs.message.paddedAssembled hpad
    have hchk : s.flag .chkv = true := hs.message.assembledChecked hasm
    exact .inl ⟨hs.message.checkedHasMode hchk, hchk, hasm, hpad⟩
  · obtain ⟨-, -, hmode⟩ := hs.codeword.pushed hraw
    obtain ⟨hchk, hasm, -⟩ := hs.message.unpadded hmode
    exact .inr ⟨hraw, hmode, hchk, hasm⟩

/-- Once the data codewords are there, the message and its bit string are shut (R103, R174 to R177). -/
theorem Parts.message_shut (hd : s.flag .dcwv = true) :
    (∀ cp, inOrder (.msgch cp) s ≠ true) ∧ inOrder .bsmode s ≠ true ∧ inOrder .bschk s ≠ true ∧
    inOrder .bsasm s ≠ true ∧ inOrder .bspad s ≠ true := by
  obtain ⟨hmode, hchk, hasm, hpad⟩ | ⟨hraw, hmode, hchk, hasm⟩ := hs.padded_or_pushed hd
  · exact ⟨fun _ => not_inOrder_of_flag hmode, not_inOrder_of_flag hmode, not_inOrder_of_flag hchk,
      not_inOrder_of_flag hasm, not_inOrder_of_flag hpad⟩
  · exact ⟨fun _ => not_inOrder_of_flag hraw, not_inOrder_of_flag hraw, not_inOrder_of_not_flag hmode,
      not_inOrder_of_not_flag hchk, not_inOrder_of_not_flag hasm⟩

/-- What DONE brings with it (R42 items 6, 7, 8 and 9). -/
theorem Parts.flags_of_done (hdone : s.flag .done = true) :
    s.flag .lvlv = true ∧ s.flag .dcwv = true ∧ s.flag .genv = true ∧ s.flag .ecwv = true ∧ s.flag .fpv = true ∧
    s.zst = .done := by
  obtain ⟨hplv, hlvl, -, -⟩ := hs.grid.selected hdone
  have hz : s.zst = .done := hs.grid.placed.mp hplv
  obtain ⟨hfp, hec⟩ := hs.grid.started fun hidle => nomatch hz.symm.trans hidle
  obtain ⟨hd, hgen, -, -⟩ := hs.codeword.encoded hec
  exact ⟨hlvl, hd, hgen, hec, hfp, hz⟩

/-- What takes effect after DONE is a read (R307). -/
theorem Effect.eq_setRes_of_done (h : Effect s i t) (ho : inOrder i s = true) (hdone : s.flag .done = true) :
    ∃ (n : Nat) (v : BitVec n), t = s.setRes v := by
  obtain ⟨hlvl, hd, hgen, hec, hfp, hz⟩ := hs.flags_of_done hdone
  obtain ⟨hmsgch, hbsmode, hbschk, hbsasm, hbspad⟩ := hs.message_shut hd
  have hwriter := needsState_of_inOrder ho
  cases h with
  | read _ v => exact ⟨_, v, rfl⟩
  | setlvl => exact absurd ho (not_inOrder_of_flag hlvl)
  | msgch => exact absurd ho (hmsgch _)
  | bsmode => exact absurd ho hbsmode
  | bschk => exact absurd ho hbschk
  | bsasm => exact absurd ho hbsasm
  | bspad => exact absurd ho hbspad
  | rsgen | rsgenl => exact absurd ho (not_inOrder_of_flag hgen)
  | dcwpush | rsenc => exact absurd ho (not_inOrder_of_flag hec)
  | fplace => exact absurd ho (not_inOrder_of_flag hfp)
  | zzinit | zzstep | zzrun => simp [needsState, hz] at hwriter
  | maskap | masksel | fmtwr => exact absurd ho (not_inOrder_of_flag hdone)

end Finished

/-- Settles O18: an ignored command keeps the state, an error is a raise, and an effect after DONE writes RES alone. -/
theorem finishedSymbolReadOnly : Obligations.FinishedSymbolReadOnly := by
  intro i s t hinv hdone hi h
  obtain ⟨-, rfl⟩ | ⟨-, e, rfl⟩ | ⟨-, ho, heff⟩ := outcomes_of_exec hi h
  · exact .inl rfl
  · exact .inr ⟨e.code, State.raise_eq_raised s e (encode i)⟩
  · obtain ⟨n, v, rfl⟩ := heff.eq_setRes_of_done (Parts.of_inv hinv) ho hdone
    exact .inl rfl

end Sys2Proof.Proofs
